-- ==== Sys2Proof/Word.lean ====
section
/-! DEFINITION. The widths of the block's values (00_scope.md R4, R5). Every value of the block is unsigned. -/

namespace Sys2Proof

/-- A byte, 8 bits, bit 0 least significant (00_scope.md R5). -/
abbrev Byte := BitVec 8

/-- A 2-bit opcode (00_scope.md R4, OPC_WIDTH). -/
abbrev Opcode := BitVec 2

/-- A register address of the peripheral, 0..63 (10_state.md R21; 00_scope.md R4, ADDR_WIDTH). -/
abbrev RegAddr := BitVec 6

/-- A host request word (30_encoding.md R57). -/
abbrev ReqWord := BitVec 16

/-- The 32-bit result of a sample read (00_scope.md R4, RESULT_WIDTH). -/
abbrev Word32 := BitVec 32

end Sys2Proof
end

