-- ==== Sys2Proof/Config.lean ====
section
/-! DEFINITION. What is fixed when an instance of the block is built (00_scope.md R4; 10_state.md R10, R11, R12, R14, R17),
the types of the OPEN parameters, and the free values: opaque constants, of which nothing can be evaluated. -/

namespace Sys2Proof

/-- TErr: the type of an error reported by the transport primitive (60_exceptions.md R110; 92_eei_decisions.md D11).
DESIGN CHOICE (log 5): the type is OPEN, so an error is a name without structure, written as a number.
The block carries it and never looks at it. -/
structure TErr where
  code : Nat
  deriving DecidableEq, Repr, Inhabited

/-- The transport handle an instance owns (10_state.md R11). DESIGN CHOICE (log 3): a name without structure. -/
structure Handle where
  id : Nat
  deriving DecidableEq, Repr, Inhabited

/-- BusAddr: an address of a bus target. Its width is the OPEN parameter P_BUS_ADDR_WIDTH
(10_state.md R22; 92_eei_decisions.md D10; log 4). The block passes it through unchanged. -/
structure BusAddr where
  width : Nat
  bits  : BitVec width
  deriving DecidableEq, Repr

/-- TRANSPORT: the variant of an instance (10_state.md R12). -/
inductive Transport
  | bus
  | stream
  deriving DecidableEq, Repr

/-- The variant of an instance with what comes with it: a BUS instance holds one target address, a STREAM instance has
none (10_state.md R12, R14). -/
inductive Link
  | bus (target : BusAddr)
  | stream
  deriving DecidableEq, Repr

/-- The three command kinds (00_scope.md R9; 30_encoding.md R51). -/
inductive Kind
  | writeReg
  | readReg
  | readData
  deriving DecidableEq, Repr

/-- The three opcode parameters P_OPC_WREG, P_OPC_RREG, P_OPC_RDATA (30_encoding.md R51; OPEN, log 1). -/
structure Opcodes where
  wreg  : Opcode
  rreg  : Opcode
  rdata : Opcode
  deriving DecidableEq, Repr

/-- `opc(k)` of 00_scope.md R9. -/
def Opcodes.opc (o : Opcodes) : Kind → Opcode
  | .writeReg => o.wreg
  | .readReg => o.rreg
  | .readData => o.rdata

/-- The constraint on the parameters: pairwise distinct (30_encoding.md R51). That each is in 0..3 is its type. -/
abbrev Opcodes.lawful (o : Opcodes) : Prop :=
  o.wreg ≠ o.rreg ∧ o.wreg ≠ o.rdata ∧ o.rreg ≠ o.rdata

/-- The configuration of an instance: constant from its construction on (10_state.md R10, R11, R12, R14, R17).
SYNC, the remaining constant, is `Config.SYNC`. -/
structure Params where
  link    : Link
  handle  : Handle
  opcodes : Opcodes
  deriving DecidableEq, Repr

/-- TRANSPORT of an instance (10_state.md R12). -/
def Params.transport (c : Params) : Transport :=
  match c.link with
  | .bus _ => .bus
  | .stream => .stream

/-- `target` of an instance: present for BUS, absent for STREAM (10_state.md R14, R24). -/
def Params.target (c : Params) : Option BusAddr :=
  match c.link with
  | .bus t => some t
  | .stream => none

/-- What a primitive call returns when it returns: Ok, with the bytes it read, or Err e (00_scope.md R6).
A write or a flush reads no bytes. -/
inductive Return
  | ok (bytes : List Byte)
  | err (e : TErr)
  deriving DecidableEq, Repr

/-- What the environment does with a primitive call: it returns, or it never does (00_scope.md R6; 60_exceptions.md R118,
R122). -/
inductive Answer
  | returns (r : Return)
  | never
  deriving DecidableEq, Repr, Inhabited

namespace Config

/-- SYNC, the hardwired sync byte (00_scope.md R4; 10_state.md R17). -/
def SYNC : Byte := 0x55#8

/-- REG_READ_BYTES (00_scope.md R4). -/
def REG_READ_BYTES : Nat := 1

/-- SAMPLE_BYTES (00_scope.md R4). -/
def SAMPLE_BYTES : Nat := 3

/-- Free value (log 1): which 2-bit value is whose opcode. An order of the four 2-bit values is exactly a lawful choice of
the three parameters (the first three), with the value no kind has last (30_encoding.md R51, R60). -/
opaque opcodeOrder : Equiv.Perm Opcode

/-- The opcode parameters of this build (30_encoding.md R51; log 1): no value of theirs can be proved, that they differ
can. -/
def opcodes : Opcodes :=
  { wreg := opcodeOrder 0#2, rreg := opcodeOrder 1#2, rdata := opcodeOrder 2#2 }

/-- Free value (log 3): the handle moved in at construction. -/
opaque handle : Handle

/-- P_BUS_ADDR_WIDTH (10_state.md R22; OPEN, log 4). -/
opaque busAddrWidth : Nat

/-- P_BUS_TARGET's bits (00_scope.md R4; OPEN, log 4). -/
opaque busTargetBits : BitVec busAddrWidth

/-- P_BUS_TARGET: the fixed target address of a BUS instance of this build (00_scope.md R4; log 4). -/
def busTarget : BusAddr := { width := busAddrWidth, bits := busTargetBits }

/-- Free value (20_memory.md R36; 92_eei_decisions.md D12, D13; log 6): the environment's n-th free draw, what it does
with a primitive call when no answer of its own is written out in the state. -/
opaque freeAnswer : Nat → Answer

/-- Free value (70_reset_and_hazards.md R132; log 14): the bytes the external stream primitive may hold at construction. -/
opaque heldAtConstruction : List Byte

/-- The configuration of a BUS instance of this build. -/
def busBuild : Params := { link := .bus busTarget, handle := handle, opcodes := opcodes }

/-- The configuration of a STREAM instance of this build. -/
def streamBuild : Params := { link := .stream, handle := handle, opcodes := opcodes }

/-- The instance that `State.reset` constructs. DESIGN CHOICE (log 2): a STREAM instance.
The spec says the variant is chosen at construction (10_state.md R12, R24). -/
def build : Params := streamBuild

end Config
end Sys2Proof
end

