-- ==== Sys2Proof/Syntax.lean ====
section
/-! DEFINITION. The syntax: one constructor per row of the opcode table, the host's requests, and what can be presented to
the block. -/

namespace Sys2Proof

/-- The rows of spec/opcode_table.json, in its order. -/
inductive Instr
  /-- CMD_WREG: the write-register command byte at register address `a` (40_command_encoder.md R71). -/
  | cmdWreg (a : RegAddr)
  /-- CMD_RREG: the read-register command byte (R72). -/
  | cmdRreg (a : RegAddr)
  /-- CMD_RDATA: the read-data command byte, register field zero (R73). -/
  | cmdRdata
  /-- BUS.WRREG: write-register(a, v) on a BUS instance (41_bus_adapter.md R80). -/
  | busWrreg (a : RegAddr) (v : Byte)
  /-- BUS.WRRAW: write-raw(p) (R81). -/
  | busWrraw (p : Byte)
  /-- BUS.RDREG: read-register(a) (R82). -/
  | busRdreg (a : RegAddr)
  /-- BUS.RDSAMPLE: read-sample() (R83). -/
  | busRdsample
  /-- STREAM.WRREG: write-register(a, v) on a STREAM instance (42_stream_adapter.md R91). -/
  | streamWrreg (a : RegAddr) (v : Byte)
  /-- STREAM.WRRAW: write-raw(p) (R92). -/
  | streamWrraw (p : Byte)
  /-- STREAM.RDREG: read-register(a) (R93). -/
  | streamRdreg (a : RegAddr)
  /-- STREAM.RDSAMPLE: read-sample() (R94). -/
  | streamRdsample
  /-- SAMPLE_RESPONSE: three response bytes in the order received (30_encoding.md R55; 43_sample_decoder.md R100). -/
  | sampleResponse (b0 b1 b2 : Byte)
  /-- SYNC: the sync byte, the first byte of every STREAM frame (30_encoding.md R53). -/
  | sync
  deriving DecidableEq, Repr

/-- OP, the request operation (30_encoding.md R58). -/
inductive ReqOp
  | wrreg
  | wrraw
  | rdreg
  | rdsample
  deriving DecidableEq, Repr

/-- A request as it is latched: (op, addr, data) (10_state.md R16). -/
structure Request where
  op   : ReqOp
  addr : RegAddr
  data : Byte
  deriving DecidableEq, Repr

/-- The operation a request stands for on an instance of a variant (30_encoding.md R58: the variant is `TRANSPORT`, not a
field of the request). -/
def Request.instr (t : Transport) (r : Request) : Instr :=
  match t, r.op with
  | .bus, .wrreg => .busWrreg r.addr r.data
  | .bus, .wrraw => .busWrraw r.data
  | .bus, .rdreg => .busRdreg r.addr
  | .bus, .rdsample => .busRdsample
  | .stream, .wrreg => .streamWrreg r.addr r.data
  | .stream, .wrraw => .streamWrraw r.data
  | .stream, .rdreg => .streamRdreg r.addr
  | .stream, .rdsample => .streamRdsample

/-- What can be presented to the block, each at the place it belongs to (log 11): a request word at the request port
(30_encoding.md R57); and, for the combinational parts by themselves, a command byte (R65), a byte in the place of the
sync byte (R53), the 24 bits of a sample response, first byte uppermost (R55). -/
inductive Item
  | request (w : ReqWord)
  | command (b : Byte)
  | sync (b : Byte)
  | response (r : BitVec 24)
  deriving DecidableEq, Repr

/-- The assembler syntax for requests (30_encoding.md R63): operands are the host's own numbers, not yet fields of a
word. -/
inductive Asm
  | wrreg (a v : Nat)
  | wrraw (p : Nat)
  | rdreg (a : Nat)
  | rdsample
  deriving DecidableEq, Repr

end Sys2Proof
end

