-- ==== Sys2Proof/Machine/Operands.lean ====
section
/-! DEFINITION. The operand forms and the two combinational parts: the fields of a request word, of a command byte and of a
sample response, ENCODE and DECODE. -/

namespace Sys2Proof.Machine

/-- OP, bits 15:14 of a request word (30_encoding.md R57). -/
def opField (w : ReqWord) : BitVec 2 := w.extractLsb' 14 2

/-- ADDR, bits 13:8 of a request word (30_encoding.md R57). -/
def addrField (w : ReqWord) : RegAddr := w.extractLsb' 8 6

/-- DATA, bits 7:0 of a request word (30_encoding.md R57). -/
def dataField (w : ReqWord) : Byte := w.extractLsb' 0 8

/-- OPC, bits 1:0 of a command byte (30_encoding.md R50). -/
def cmdOpcode (c : Byte) : Opcode := c.extractLsb' 0 2

/-- ADDR, bits 7:2 of a command byte (30_encoding.md R50). -/
def cmdAddr (c : Byte) : RegAddr := c.extractLsb' 2 6

/-- The byte received first, bits 23:16 of a sample response (30_encoding.md R55). -/
def responseByte0 (r : BitVec 24) : Byte := r.extractLsb' 16 8

/-- The byte received second, bits 15:8 of a sample response. -/
def responseByte1 (r : BitVec 24) : Byte := r.extractLsb' 8 8

/-- The byte received last, bits 7:0 of a sample response. -/
def responseByte2 (r : BitVec 24) : Byte := r.extractLsb' 0 8

/-- ENCODE(k, addr): `zext_8(opc(k)) | (zext_8(addr) << 2)`, computed in 8 bits (40_command_encoder.md R70). -/
def encodeCommand (o : Opcodes) (k : Kind) (a : RegAddr) : Byte :=
  (o.opc k).setWidth 8 ||| (a.setWidth 8 <<< 2)

/-- DECODE(b0, b1, b2): `(zext_32(b0) << 16) | (zext_32(b1) << 8) | zext_32(b2)` (43_sample_decoder.md R100). -/
def decodeSample (b0 b1 b2 : Byte) : Word32 :=
  (b0.setWidth 32 <<< 16) ||| (b1.setWidth 32 <<< 8) ||| b2.setWidth 32

end Sys2Proof.Machine
end

