-- ==== Sys2Proof/Machine/State.lean ====
section
/-! DEFINITION. The state of one instance of the block, of the host and of the environment as far as the block's rules
depend on them, and what can be observed of a run: plain data. -/

namespace Sys2Proof.Machine

/-- `phase`: the sequencer's position within the running operation (10_state.md R15). -/
inductive Phase
  /-- IDLE: no operation running. -/
  | idle
  /-- B_XACT: the one bus transaction has been issued and has not returned. -/
  | bXact
  /-- S_WRITE: StreamWriteAll has been issued and has not returned. -/
  | sWrite
  /-- S_FLUSH: StreamFlush has been issued and has not returned. -/
  | sFlush
  /-- S_READ: StreamReadExact has been issued and has not returned. -/
  | sRead
  deriving DecidableEq, Repr

/-- A call of a transport primitive (00_scope.md R6). -/
inductive Call
  | busWrite (t : BusAddr) (s : List Byte)
  | busWriteRead (t : BusAddr) (s : List Byte) (m : Nat)
  | streamWriteAll (s : List Byte)
  | streamFlush
  | streamReadExact (m : Nat)
  deriving DecidableEq, Repr

/-- One event at the transport interface: a call issued on a handle, or the return of the call that is pending
(60_exceptions.md R124). -/
inductive Event
  | call (h : Handle) (c : Call)
  | ret (r : Return)
  deriving DecidableEq, Repr

/-- The value of an operation that ends with Ok (30_encoding.md R64). -/
inductive Value
  | unit
  | byte (b : Byte)
  | sample (s : Word32)
  deriving DecidableEq, Repr

/-- The one error kind (60_exceptions.md R110). -/
inductive OpError
  | commErr (e : TErr)
  deriving DecidableEq, Repr

/-- The result of an operation (30_encoding.md R64). -/
inductive Result
  | ok (v : Value)
  | err (e : OpError)
  deriving DecidableEq, Repr

/-- What a combinational part drove when it was given an input by itself (log 11): the encoder a command byte, the decoder
a 32-bit result, the hardwired constant SYNC. -/
inductive CombOut
  | command (c : Byte)
  | sample (s : Word32)
  | sync (b : Byte)
  deriving DecidableEq, Repr

/-- The state. `cfg`, `phase` and `req` are the block's own, all of it (10_state.md R10); `host`, `env`, `draws` and `held`
stand for the agents outside the block (60_exceptions.md R122); `trace`, `results` and `comb` are what can be observed. -/
structure State where
  /-- The configuration, constant from construction on (10_state.md R10, R11, R12, R14, R17). -/
  cfg     : Params
  /-- The sequencer phase (10_state.md R15). -/
  phase   : Phase
  /-- The latched request, no value in IDLE (10_state.md R16). -/
  req     : Option Request
  /-- What the host holds and presents in this order (70_reset_and_hazards.md R136; log 9). -/
  host    : List Item
  /-- The environment's answers that are written out, in the order of the calls they answer (00_scope.md R6; log 6). -/
  env     : List Answer
  /-- The model's own counter of the environment's free draws (20_memory.md R36; log 6). -/
  draws   : Nat
  /-- The bytes the external stream primitive may still hold, at most (10_state.md R20; 20_memory.md R35, R41; log 14). -/
  held    : List Byte
  /-- The calls and returns at the transport interface, oldest first (60_exceptions.md R124; log 15). -/
  trace   : List Event
  /-- The results at the result port, oldest first (30_encoding.md R64; log 15). -/
  results : List Result
  /-- What a combinational part drove last (log 11). -/
  comb    : Option CombOut
  deriving DecidableEq, Repr

/-- How the model stops in states that no run from a constructed instance reaches. The block itself has no such stop: its
one error, CommErr, is a result (60_exceptions.md R110, R115). -/
inductive Fault
  /-- A step in a phase other than IDLE finds no latched request (10_state.md R16 says there is one). Raised by the fetch.
  Safe: no run reaches it (log 18). -/
  | noLatchedRequest
  /-- An operation finds the phase of the other variant (10_state.md R15 gives each phase its variant). Raised by the
  operations of both sequencers. Safe: no run reaches it (log 16). -/
  | phaseOfOtherVariant
  deriving DecidableEq, Repr

/-- What has no meaning for this instance. -/
inductive Refusal
  /-- The instruction has no meaning in the model yet. Raised by no arm. Safe. -/
  | notModelled (mnemonic : String)
  /-- An operation of the BUS variant on a STREAM instance, or the other way round: the instance does not have it
  (10_state.md R12; 41_bus_adapter.md R84; 42_stream_adapter.md R97). Raised by the operations of both sequencers; no
  request word decodes to one. Safe (log 16). -/
  | operationOfOtherVariant
  deriving DecidableEq, Repr

/-- The outcome of executing one instruction for one step. -/
abbrev Outcome := Host.Outcome State Fault Refusal

/-- Construction, the block's reset, of an instance of configuration `c` (10_state.md R24; 70_reset_and_hazards.md R130):
`phase` IDLE, `req` no value, no primitive call made. What the external stream primitive holds is unspecified (R132). -/
def State.construct (c : Params) : State :=
  { cfg := c, phase := .idle, req := none, host := [], env := [], draws := 0, held := Config.heldAtConstruction,
    trace := [], results := [], comb := none }

/-- The machine right after reset: the instance `Config.build`, just constructed. -/
def State.reset : State := State.construct Config.build

end Sys2Proof.Machine
end

