-- ==== Sys2Proof/Machine/Ops.lean ====
section
/-! DEFINITION. The operations the meanings are made of: accepting a request, issuing a primitive call, its return, ending
an operation, raising CommErr, and the two sequences of 41_bus_adapter.md and 42_stream_adapter.md. -/

namespace Sys2Proof.Machine

/-- `phase <- p` and the issue of primitive call `k` on the handle of the instance (10_state.md R11, R15). -/
def State.issue (s : State) (p : Phase) (k : Call) : State :=
  { s with phase := p, trace := s.trace ++ [.call s.cfg.handle k] }

/-- A request is accepted: `req` is latched and the operation's first call is issued (10_state.md R16;
70_reset_and_hazards.md R136). -/
def State.accept (s : State) (r : Request) (p : Phase) (k : Call) : State :=
  State.issue { s with req := some r } p k

/-- The operation ends with a result: `phase <- IDLE`, `req` holds no value, the result is delivered (10_state.md R13,
R18; 30_encoding.md R64). -/
def State.finish (s : State) (r : Result) : State :=
  { s with phase := .idle, req := none, results := s.results ++ [r] }

/-- `raise CommErr(e)`: the one exception of the block, taken (60_exceptions.md R110, R113, R115). It saves no state, has no
vector, no handler and no mode change; it ends the operation with Err(CommErr(e)) and makes no further call. There is no
return from it: the next request is accepted like any other (R116). -/
def State.raiseCommErr (s : State) (e : TErr) : State := s.finish (.err (.commErr e))

/-- What the environment does with the pending call: the next answer that is written out, and when there is none left a
free draw (00_scope.md R6; 20_memory.md R36; log 6). -/
def State.answer (s : State) : Answer :=
  match s.env with
  | a :: _ => a
  | [] => Config.freeAnswer s.draws

/-- The pending call has returned `r`: the return is recorded, the answer used up (a draw counted when it was a free
one). -/
def State.returned (s : State) (r : Return) : State :=
  { s with env := s.env.tail, draws := if s.env.isEmpty then s.draws + 1 else s.draws, trace := s.trace ++ [.ret r] }

/-- `x <- P(...) or raise`, the wait for the pending call (00_scope.md R6). An environment that never returns leaves
everything as it is (60_exceptions.md R118, R123; log 8). Err e raises CommErr(e). Ok with the bytes that the call is to
deliver, read by `resp`, goes on as `k` says; bytes of another number are no return of this call, since on Ok the count is
exactly the requested count (92_eei_decisions.md D12), so that it stays pending (log 7). -/
def State.await (s : State) (resp : List Byte → Option Value) (k : Value → State → State) : State :=
  match s.answer with
  | .never => s
  | .returns (.err e) => (s.returned (.err e)).raiseCommErr e
  | .returns (.ok bytes) =>
    match resp bytes with
    | some v => k v (s.returned (.ok bytes))
    | none => s

/-- What a write or a flush delivers on Ok: no bytes, and `Unit` for the operation (30_encoding.md R64). -/
def respUnit : List Byte → Option Value
  | [] => some .unit
  | _ :: _ => none

/-- What a 1-byte read delivers: the byte, unmodified (30_encoding.md R56). -/
def respByte : List Byte → Option Value
  | [b] => some (.byte b)
  | [] => none
  | _ :: _ :: _ => none

/-- What a 3-byte read delivers: the sample DECODE makes of the bytes in the order received (43_sample_decoder.md R100). -/
def respSample : List Byte → Option Value
  | [b0, b1, b2] => some (.sample (decodeSample b0 b1 b2))
  | [] => none
  | [_] => none
  | [_, _] => none
  | _ :: _ :: _ :: _ :: _ => none

/-- Bytes are handed to the external stream primitive, which may hold them (10_state.md R20; log 14). -/
def State.hand (s : State) (bs : List Byte) : State := { s with held := s.held ++ bs }

/-- A flush has returned Ok: every byte has left the stream primitive's buffer (20_memory.md R41). -/
def State.flushed (s : State) : State := { s with held := [] }

/-- One step of a BUS operation with request `r`, transaction `call` and response `resp` (41_bus_adapter.md R80 to R85;
10_state.md R18). In IDLE the request is accepted and the transaction issued to `target`; in B_XACT, when this operation is
the running one, its return ends it, and when another one is running there is no effect (70_reset_and_hazards.md R136;
log 17). -/
def busOp (r : Request) (call : BusAddr → Call) (resp : List Byte → Option Value) (s : State) : Outcome :=
  match s.cfg.link with
  | .stream => .refused .operationOfOtherVariant
  | .bus target =>
    match s.phase with
    | .idle => .next (s.accept r .bXact (call target))
    | .bXact =>
      .next (if s.req = some r then s.await resp (fun v t => t.finish (.ok v)) else s)
    | .sWrite => .fault .phaseOfOtherVariant
    | .sFlush => .fault .phaseOfOtherVariant
    | .sRead => .fault .phaseOfOtherVariant

/-- The part of STREAM_OP behind the flush (42_stream_adapter.md R90): a write, m = 0, returns Unit; a read issues
StreamReadExact(m). -/
def streamAfterFlush (m : Nat) (s : State) : State :=
  if m = 0 then s.flushed.finish (.ok .unit) else s.flushed.issue .sRead (.streamReadExact m)

/-- One step of STREAM_OP(frame, m) (42_stream_adapter.md R90; 10_state.md R18) for the operation with request `r`, whose
response, for a read, is `resp`. In IDLE the request is accepted and the whole frame handed to StreamWriteAll in one call;
then the flush, then for a read the read, each after the call before it returned Ok (20_memory.md R39). When another
operation is running there is no effect (70_reset_and_hazards.md R136; log 17). -/
def streamOp (r : Request) (frame : List Byte) (m : Nat) (resp : List Byte → Option Value) (s : State) : Outcome :=
  match s.cfg.link with
  | .bus _ => .refused .operationOfOtherVariant
  | .stream =>
    match s.phase with
    | .idle => .next ((s.hand frame).accept r .sWrite (.streamWriteAll frame))
    | .sWrite =>
      .next (if s.req = some r then s.await respUnit (fun _ t => t.issue .sFlush .streamFlush) else s)
    | .sFlush =>
      .next (if s.req = some r then s.await respUnit (fun _ t => streamAfterFlush m t) else s)
    | .sRead =>
      .next (if s.req = some r then s.await resp (fun v t => t.finish (.ok v)) else s)
    | .bXact => .fault .phaseOfOtherVariant

/-- A combinational part drives an output; no state of the block is written (40_command_encoder.md R70;
43_sample_decoder.md R100; log 11). -/
def State.drive (s : State) (o : CombOut) : State := { s with comb := some o }

end Sys2Proof.Machine
end

