-- ==== Sys2Proof/Machine/BusSequencer.lean ====
section
/-! DEFINITION. The four operations of a BUS instance (41_bus_adapter.md R80 to R85). -/

namespace Sys2Proof.Machine

/-- BUS.WRREG (R80): `BusWrite(target, [ENCODE(WriteReg, a), v]) or raise; return Unit`. -/
def execBusWrreg (a : RegAddr) (v : Byte) (s : State) : Outcome :=
  busOp { op := .wrreg, addr := a, data := v }
    (fun t => .busWrite t [encodeCommand s.cfg.opcodes .writeReg a, v]) respUnit s

/-- BUS.WRRAW (R81): `BusWrite(target, [p]) or raise; return Unit`. -/
def execBusWrraw (p : Byte) (s : State) : Outcome :=
  busOp { op := .wrraw, addr := 0#6, data := p } (fun t => .busWrite t [p]) respUnit s

/-- BUS.RDREG (R82): `r <- BusWriteRead(target, [ENCODE(ReadReg, a)], 1) or raise; return Byte(r[0])`. -/
def execBusRdreg (a : RegAddr) (s : State) : Outcome :=
  busOp { op := .rdreg, addr := a, data := 0#8 }
    (fun t => .busWriteRead t [encodeCommand s.cfg.opcodes .readReg a] Config.REG_READ_BYTES) respByte s

/-- BUS.RDSAMPLE (R83): `r <- BusWriteRead(target, [ENCODE(ReadData, 0)], 3) or raise; return
Sample(DECODE(r[0], r[1], r[2]))`. -/
def execBusRdsample (s : State) : Outcome :=
  busOp { op := .rdsample, addr := 0#6, data := 0#8 }
    (fun t => .busWriteRead t [encodeCommand s.cfg.opcodes .readData 0#6] Config.SAMPLE_BYTES) respSample s

end Sys2Proof.Machine
end

