-- ==== Sys2Proof/Machine/CommandEncoder.lean ====
section
/-! DEFINITION. The command bytes (40_command_encoder.md R70 to R74): the combinational encoder given a kind and an
address. -/

namespace Sys2Proof.Machine

/-- CMD_WREG (R71): the encoder drives `P_OPC_WREG | (a << 2)`. -/
def execCmdWreg (a : RegAddr) (s : State) : Outcome :=
  .next (s.drive (.command (encodeCommand s.cfg.opcodes .writeReg a)))

/-- CMD_RREG (R72): the encoder drives `P_OPC_RREG | (a << 2)`. -/
def execCmdRreg (a : RegAddr) (s : State) : Outcome :=
  .next (s.drive (.command (encodeCommand s.cfg.opcodes .readReg a)))

/-- CMD_RDATA (R73): the encoder drives ENCODE(ReadData, 0), that is P_OPC_RDATA. -/
def execCmdRdata (s : State) : Outcome :=
  .next (s.drive (.command (encodeCommand s.cfg.opcodes .readData 0#6)))

end Sys2Proof.Machine
end

