-- ==== Sys2Proof/Machine/SampleDecoder.lean ====
section
/-! DEFINITION. The sample response (43_sample_decoder.md R100 to R103): the combinational decoder given three bytes. -/

namespace Sys2Proof.Machine

/-- SAMPLE_RESPONSE (R100): the decoder drives DECODE(b0, b1, b2). A sample read that is waiting for its bytes applies the
same DECODE to them (`respSample`). -/
def execSampleResponse (b0 b1 b2 : Byte) (s : State) : Outcome :=
  .next (s.drive (.sample (decodeSample b0 b1 b2)))

end Sys2Proof.Machine
end

