-- ==== Sys2Proof/Machine/StreamSequencer.lean ====
section
/-! DEFINITION. The four operations of a STREAM instance (42_stream_adapter.md R90 to R97), and the sync byte. -/

namespace Sys2Proof.Machine

/-- STREAM.WRREG (R91): `STREAM_OP([0x55, ENCODE(WriteReg, a), v], 0)`, result Ok(Unit). -/
def execStreamWrreg (a : RegAddr) (v : Byte) (s : State) : Outcome :=
  streamOp { op := .wrreg, addr := a, data := v }
    [Config.SYNC, encodeCommand s.cfg.opcodes .writeReg a, v] 0 respUnit s

/-- STREAM.WRRAW (R92): `STREAM_OP([0x55, p], 0)`, result Ok(Unit). -/
def execStreamWrraw (p : Byte) (s : State) : Outcome :=
  streamOp { op := .wrraw, addr := 0#6, data := p } [Config.SYNC, p] 0 respUnit s

/-- STREAM.RDREG (R93): `r <- STREAM_OP([0x55, ENCODE(ReadReg, a)], 1)`, result Ok(Byte(r[0])). -/
def execStreamRdreg (a : RegAddr) (s : State) : Outcome :=
  streamOp { op := .rdreg, addr := a, data := 0#8 }
    [Config.SYNC, encodeCommand s.cfg.opcodes .readReg a] Config.REG_READ_BYTES respByte s

/-- STREAM.RDSAMPLE (R94): `r <- STREAM_OP([0x55, ENCODE(ReadData, 0)], 3)`, result
Ok(Sample(DECODE(r[0], r[1], r[2]))). -/
def execStreamRdsample (s : State) : Outcome :=
  streamOp { op := .rdsample, addr := 0#6, data := 0#8 }
    [Config.SYNC, encodeCommand s.cfg.opcodes .readData 0#6] Config.SAMPLE_BYTES respSample s

/-- SYNC (30_encoding.md R53; 10_state.md R17): the hardwired byte 0x55 is driven. -/
def execSync (s : State) : Outcome := .next (s.drive (.sync Config.SYNC))

end Sys2Proof.Machine
end

