-- ==== Sys2Proof/Machine/Dispatch.lean ====
section
/-! DEFINITION. One arm per row of the opcode table. -/

namespace Sys2Proof.Machine

-- For a request, exec runs ONE step of its operation: acceptance in IDLE, the return of the pending call in any other phase.
def exec (i : Instr) (s : State) : Host.Outcome State Fault Refusal :=
  match i with
  | .cmdWreg a => Sys2Proof.Machine.execCmdWreg a s
  | .cmdRreg a => Sys2Proof.Machine.execCmdRreg a s
  | .cmdRdata => Sys2Proof.Machine.execCmdRdata s
  | .busWrreg a v => Sys2Proof.Machine.execBusWrreg a v s
  | .busWrraw p => Sys2Proof.Machine.execBusWrraw p s
  | .busRdreg a => Sys2Proof.Machine.execBusRdreg a s
  | .busRdsample => Sys2Proof.Machine.execBusRdsample s
  | .streamWrreg a v => Sys2Proof.Machine.execStreamWrreg a v s
  | .streamWrraw p => Sys2Proof.Machine.execStreamWrraw p s
  | .streamRdreg a => Sys2Proof.Machine.execStreamRdreg a s
  | .streamRdsample => Sys2Proof.Machine.execStreamRdsample s
  | .sampleResponse b0 b1 b2 => Sys2Proof.Machine.execSampleResponse b0 b1 b2 s
  | .sync => Sys2Proof.Machine.execSync s

end Sys2Proof.Machine
end

