-- ==== Sys2Proof/WellFormed.lean ====
section
/-! DEFINITION. The checks on terms: of a configuration, of a request, of an instruction for an instance, of a host's
number operands. -/

namespace Sys2Proof

/-- The opcode parameters are pairwise distinct (30_encoding.md R51). -/
def Params.wellFormed (c : Params) : Bool := decide c.opcodes.lawful

/-- The reserved fields of a request are zero (30_encoding.md R59). -/
def Request.wellFormed (r : Request) : Bool :=
  match r.op with
  | .wrreg => true
  | .wrraw => r.addr == 0#6
  | .rdreg => r.data == 0#8
  | .rdsample => r.addr == 0#6 && r.data == 0#8

/-- The instruction is one that an instance of configuration `c` has: the operations of the other variant are not
(10_state.md R12; 41_bus_adapter.md R84; 42_stream_adapter.md R97). -/
def Instr.wellFormed (c : Params) : Instr → Bool
  | .cmdWreg _ => true
  | .cmdRreg _ => true
  | .cmdRdata => true
  | .busWrreg _ _ => c.transport == .bus
  | .busWrraw _ => c.transport == .bus
  | .busRdreg _ => c.transport == .bus
  | .busRdsample => c.transport == .bus
  | .streamWrreg _ _ => c.transport == .stream
  | .streamWrraw _ => c.transport == .stream
  | .streamRdreg _ => c.transport == .stream
  | .streamRdsample => c.transport == .stream
  | .sampleResponse _ _ _ => true
  | .sync => true

/-- The host's numbers fit the request's fields: an address is 0..63, a byte 0..255 (30_encoding.md R61, R63). -/
def Asm.wellFormed : Asm → Bool
  | .wrreg a v => decide (a < 64) && decide (v < 256)
  | .wrraw p => decide (p < 256)
  | .rdreg a => decide (a < 64)
  | .rdsample => true

end Sys2Proof
end

