-- ==== Sys2Proof/Decode.lean ====
section
/-! DEFINITION. Decoding what is presented to the block, total and rejecting by name; after it the encoder, written from the
field tables of 30_encoding.md; the assembler of requests (R63); and the reading of one word of spec/opcode_table.json. -/

namespace Sys2Proof

open Sys2Proof.Machine

/-- Why something presented has no meaning. -/
inductive DecodeError
  /-- ADDR of WRRAW or RDSAMPLE is not zero (30_encoding.md R59). -/
  | reservedAddr
  /-- DATA of RDREG or RDSAMPLE is not zero (30_encoding.md R59). -/
  | reservedData
  /-- Bits 1:0 of a command byte are the value that is no kind's opcode (30_encoding.md R60). -/
  | noSuchKind
  /-- A read-data command byte with a register field that is not zero (30_encoding.md R52, R65). -/
  | readDataAddr
  /-- A byte in the place of the sync byte that is not 0x55 (30_encoding.md R53). -/
  | notSync
  deriving DecidableEq, Repr

/-- A request word, field by field (30_encoding.md R57, R58, R59). -/
def decodeRequest (w : ReqWord) : Except DecodeError Request :=
  if opField w = 0b00#2 then .ok { op := .wrreg, addr := addrField w, data := dataField w }
  else if opField w = 0b01#2 then
    if addrField w = 0#6 then .ok { op := .wrraw, addr := 0#6, data := dataField w } else .error .reservedAddr
  else if opField w = 0b10#2 then
    if dataField w = 0#8 then .ok { op := .rdreg, addr := addrField w, data := 0#8 } else .error .reservedData
  else if addrField w ≠ 0#6 then .error .reservedAddr
  else if dataField w ≠ 0#8 then .error .reservedData
  else .ok { op := .rdsample, addr := 0#6, data := 0#8 }

/-- A command byte read back: the kind whose opcode stands in bits 1:0, at the address in bits 7:2, which is zero for
ReadData (30_encoding.md R65). -/
def readCommand (o : Opcodes) (c : Byte) : Except DecodeError (Kind × RegAddr) :=
  if cmdOpcode c = o.wreg then .ok (.writeReg, cmdAddr c)
  else if cmdOpcode c = o.rreg then .ok (.readReg, cmdAddr c)
  else if cmdOpcode c = o.rdata then
    if cmdAddr c = 0#6 then .ok (.readData, 0#6) else .error .readDataAddr
  else .error .noSuchKind

/-- The table row of a command of kind `k` at `a`. -/
def commandInstr (k : Kind) (a : RegAddr) : Instr :=
  match k with
  | .writeReg => .cmdWreg a
  | .readReg => .cmdRreg a
  | .readData => .cmdRdata

/-- Decoding, for an instance of configuration `c`. -/
def decode (c : Params) : Item → Except DecodeError Instr
  | .request w => (decodeRequest w).map (Request.instr c.transport)
  | .command b => (readCommand c.opcodes b).map (fun ka => commandInstr ka.1 ka.2)
  | .sync b => if b = Config.SYNC then .ok .sync else .error .notSync
  | .response r => .ok (.sampleResponse (responseByte0 r) (responseByte1 r) (responseByte2 r))

/-- The OP value of a request operation (30_encoding.md R58). -/
def ReqOp.code : ReqOp → BitVec 2
  | .wrreg => 0b00#2
  | .wrraw => 0b01#2
  | .rdreg => 0b10#2
  | .rdsample => 0b11#2

/-- A request word from its fields: OP in 15:14, ADDR in 13:8, DATA in 7:0 (30_encoding.md R57). -/
def encodeRequest (r : Request) : ReqWord := r.op.code ++ r.addr ++ r.data

/-- A command byte from its fields: ADDR in 7:2, OPC in 1:0 (30_encoding.md R50). -/
def commandByte (o : Opcodes) (k : Kind) (a : RegAddr) : Byte := a ++ o.opc k

/-- What presents an instruction to an instance of configuration `c`: every row of the opcode table laid out field by
field. -/
def encode (c : Params) : Instr → Item
  | .cmdWreg a => .command (commandByte c.opcodes .writeReg a)
  | .cmdRreg a => .command (commandByte c.opcodes .readReg a)
  | .cmdRdata => .command (commandByte c.opcodes .readData 0#6)
  | .busWrreg a v => .request (encodeRequest { op := .wrreg, addr := a, data := v })
  | .busWrraw p => .request (encodeRequest { op := .wrraw, addr := 0#6, data := p })
  | .busRdreg a => .request (encodeRequest { op := .rdreg, addr := a, data := 0#8 })
  | .busRdsample => .request (encodeRequest { op := .rdsample, addr := 0#6, data := 0#8 })
  | .streamWrreg a v => .request (encodeRequest { op := .wrreg, addr := a, data := v })
  | .streamWrraw p => .request (encodeRequest { op := .wrraw, addr := 0#6, data := p })
  | .streamRdreg a => .request (encodeRequest { op := .rdreg, addr := a, data := 0#8 })
  | .streamRdsample => .request (encodeRequest { op := .rdsample, addr := 0#6, data := 0#8 })
  | .sampleResponse b0 b1 b2 => .response (b0 ++ b1 ++ b2)
  | .sync => .sync 0b01010101#8

/-- The request word of a line of assembler: refused, never truncated, where a number does not fit its field
(30_encoding.md R61, R63). -/
def assemble (l : Asm) : Option ReqWord :=
  if l.wellFormed then
    some (match l with
      | .wrreg a v => BitVec.ofNat 16 (a * 256 + v)
      | .wrraw p => 0x4000#16 ||| BitVec.ofNat 16 p
      | .rdreg a => 0x8000#16 ||| BitVec.ofNat 16 (a * 256)
      | .rdsample => 0xC000#16)
  else none

/-- The item whose bits are `w`, numbered as spec/opcode_table.json numbers a row of `nbits` bits (log 12): 16 bits are a
request word, 24 bits a sample response, 8 bits the sync byte where they are 0x55 and else a command byte. -/
def itemOfWord (nbits w : Nat) : Option Item :=
  match nbits with
  | 8 =>
    if w < 256 then
      some (if BitVec.ofNat 8 w = Config.SYNC then .sync (BitVec.ofNat 8 w) else .command (BitVec.ofNat 8 w))
    else none
  | 16 => if w < 65536 then some (.request (BitVec.ofNat 16 w)) else none
  | 24 => if w < 16777216 then some (.response (BitVec.ofNat 24 w)) else none
  | _ => none

/-- The instruction the decoder reads from one word of the opcode table, on the instance `State.reset` constructs.
BUS.X and STREAM.X have the same words, so a request word reads as that instance's operation (log 13). -/
def decodeTableWord (nbits w : Nat) : Option Instr :=
  match itemOfWord nbits w with
  | none => none
  | some it =>
    match decode Config.build it with
    | .ok i => some i
    | .error _ => none

end Sys2Proof
end

