-- ==== Sys2Proof/Machine/Fetch.lean ====
section
/-! DEFINITION. What the next step runs: in IDLE what the host presents, in any other phase the operation of the latched
request; the host's side of the request port. -/

namespace Sys2Proof.Machine

/-- What a step finds to do. -/
inductive Fetched
  /-- Run this instruction at this state. -/
  | run (i : Instr) (s : State)
  /-- Nothing to run: the step answers this state. -/
  | quiet (s : State)
  /-- A state no run reaches. -/
  | stuck (f : Fault)
  deriving DecidableEq, Repr

/-- In IDLE the host's next item is taken (70_reset_and_hazards.md R136) and decoded. Nothing presented: nothing happens
(60_exceptions.md R119). Not accepted, since it has no meaning: no call, no result, `phase` stays IDLE, and the host goes on
to its next item (30_encoding.md R59; 95_test_vectors.md P4; log 10). -/
def fetchPresented (s : State) : Fetched :=
  match s.host with
  | [] => .quiet s
  | it :: rest =>
    match decode s.cfg it with
    | .ok i => .run i { s with host := rest }
    | .error _ => .quiet { s with host := rest }

/-- While an operation runs the step is its own (10_state.md R16, R18). -/
def fetchRunning (s : State) : Fetched :=
  match s.req with
  | some r => .run (r.instr s.cfg.transport) s
  | none => .stuck .noLatchedRequest

/-- What the next step runs. -/
def fetch (s : State) : Fetched :=
  match s.phase with
  | .idle => fetchPresented s
  | .bXact => fetchRunning s
  | .sWrite => fetchRunning s
  | .sFlush => fetchRunning s
  | .sRead => fetchRunning s

/-- The host adds a request to what it holds. A number that does not fit its field is refused before the port and changes
nothing (30_encoding.md R61; log 19). -/
def State.submit (s : State) (l : Asm) : State :=
  match assemble l with
  | some w => { s with host := s.host ++ [.request w] }
  | none => s

/-- The item is the next one presented, and the block is ready to take it (log 21). -/
def State.present (s : State) (it : Item) : State :=
  { s with phase := .idle, req := none, host := it :: s.host }

end Sys2Proof.Machine
end

