-- ==== Sys2Proof/Machine/Step.lean ====
section
/-! DEFINITION. One step of the machine (70_reset_and_hazards.md R139: one step per primitive call and its return). -/

namespace Sys2Proof.Machine

/-- One step. -/
def step (s : State) : Host.Outcome State Fault Refusal :=
  match fetch s with
  | .run i t => exec i t
  | .quiet t => .next t
  | .stuck f => .fault f

/-- The state with one word of the opcode table presented, so that the very next step takes it (log 21). -/
def State.withFetchWord (s : State) (nbits w : Nat) : State :=
  match itemOfWord nbits w with
  | some it => s.present it
  | none => s

end Sys2Proof.Machine
end

