-- ==== Sys2Proof/Machine/Flags.lean ====
section
/-! DEFINITION. The block has no flags and no condition codes; the only status is the outcome of each operation
(10_state.md R19). Here is the hardware view of a result (30_encoding.md R64). -/

namespace Sys2Proof.Machine

/-- The status lines of the result port (30_encoding.md R64). -/
inductive Status
  | ok
  | err
  deriving DecidableEq, Repr

/-- status of a result. -/
def Result.status : Result → Status
  | .ok _ => .ok
  | .err _ => .err

/-- data[31:0] of a result, where it carries a value: the byte widened with zeros, the sample. For Ok(Unit) the data lines
are not defined and may not be read, so there is no value (30_encoding.md R64; log 23). -/
def Result.dataLines : Result → Option Word32
  | .ok .unit => none
  | .ok (.byte b) => some (b.setWidth 32)
  | .ok (.sample s) => some s
  | .err _ => none

/-- err of a result: the transport's error, unchanged (60_exceptions.md R112). -/
def Result.errLine : Result → Option TErr
  | .ok _ => none
  | .err (.commErr e) => some e

end Sys2Proof.Machine
end

