-- ==== Sys2Proof/Safety.lean ====
section
/-! DEFINITION. What a run of the block is held to, in the terms the statements use, each written from the spec's tables and
not from the meanings: the calls of an operation (20_memory.md R33; 30_encoding.md R53, R54), the order of calls at the
transport interface, the shape of the sequencer's state, and the host's duty. -/

namespace Sys2Proof.Machine

/-- The bytes an operation sends besides a sync byte: the write phase of the table of 30_encoding.md R54. -/
def writePhase (o : Opcodes) (r : Request) : List Byte :=
  match r.op with
  | .wrreg => [encodeCommand o .writeReg r.addr, r.data]
  | .wrraw => [r.data]
  | .rdreg => [encodeCommand o .readReg r.addr]
  | .rdsample => [encodeCommand o .readData 0#6]

/-- How many bytes an operation reads (20_memory.md R33). -/
def readLength : ReqOp → Nat
  | .wrreg => 0
  | .wrraw => 0
  | .rdreg => 1
  | .rdsample => 3

/-- How many bytes a primitive call delivers on Ok (00_scope.md R6). -/
def Call.delivers : Call → Nat
  | .busWrite _ _ => 0
  | .busWriteRead _ _ m => m
  | .streamWriteAll _ => 0
  | .streamFlush => 0
  | .streamReadExact m => m

/-- The value of an operation, of the bytes its last call delivered (30_encoding.md R64); none for bytes of another
number. -/
def opValue : ReqOp → List Byte → Option Value
  | .wrreg => respUnit
  | .wrraw => respUnit
  | .rdreg => respByte
  | .rdsample => respSample

/-- The one transaction of a BUS operation (41_bus_adapter.md R84). -/
def busCall (t : BusAddr) (o : Opcodes) (r : Request) : Call :=
  match r.op with
  | .wrreg => .busWrite t (writePhase o r)
  | .wrraw => .busWrite t (writePhase o r)
  | .rdreg => .busWriteRead t (writePhase o r) (readLength r.op)
  | .rdsample => .busWriteRead t (writePhase o r) (readLength r.op)

/-- The primitive calls of an operation, in order, when each returns Ok (60_exceptions.md R111; 20_memory.md R39). -/
def opCalls (c : Params) (r : Request) : List Call :=
  match c.link with
  | .bus t => [busCall t c.opcodes r]
  | .stream =>
    if readLength r.op = 0 then [.streamWriteAll (Config.SYNC :: writePhase c.opcodes r), .streamFlush]
    else [.streamWriteAll (Config.SYNC :: writePhase c.opcodes r), .streamFlush, .streamReadExact (readLength r.op)]

/-- An operation as a function of its calls and of what they return (00_scope.md R8): the events at the transport interface
and the result. The first Err ends it with CommErr and no later call is made (60_exceptions.md R113); the last Ok ends it
with its value. No value: some call never returned, or returned what it cannot. -/
def opRun (h : Handle) (op : ReqOp) : List Call → List Return → Option (List Event × Result)
  | [], _ => none
  | _ :: _, [] => none
  | k :: _, .err e :: _ => some ([.call h k, .ret (.err e)], .err (.commErr e))
  | [k], .ok bytes :: _ =>
    (opValue op bytes).map (fun v => ([.call h k, .ret (.ok bytes)], .ok v))
  | k :: k' :: ks, .ok bytes :: rets =>
    if bytes = [] then
      (opRun h op (k' :: ks) rets).map (fun er => (.call h k :: .ret (.ok bytes) :: er.1, er.2))
    else none

/-- The call that is pending in a phase, for the latched request (10_state.md R15). -/
def pendingCall (c : Params) (p : Phase) (r : Request) : Option Call :=
  match p with
  | .idle => none
  | .bXact => c.target.map (fun t => busCall t c.opcodes r)
  | .sWrite => some (.streamWriteAll (Config.SYNC :: writePhase c.opcodes r))
  | .sFlush => some .streamFlush
  | .sRead => some (.streamReadExact (readLength r.op))

/-- The pending call of a state. -/
def State.pending (s : State) : Option Call := s.req.bind (pendingCall s.cfg s.phase)

/-- The pending call is answered by a return it can have: Err, or Ok with the bytes it is to deliver. -/
def State.served (s : State) : Bool :=
  match s.pending, s.answer with
  | some _, .returns (.err _) => true
  | some k, .returns (.ok bytes) => bytes.length == k.delivers
  | some _, .never => false
  | none, _ => false

/-- The variant a phase belongs to: IDLE to both (10_state.md R15). -/
def Phase.fits (t : Transport) : Phase → Bool
  | .idle => true
  | .bXact => t == .bus
  | .sWrite => t == .stream
  | .sFlush => t == .stream
  | .sRead => t == .stream

/-- The sequencer's state has its shape: `req` holds no value exactly in IDLE (10_state.md R13, R16); the phase is one of the
variant (R15); the latched request's reserved fields are zero (30_encoding.md R59); S_READ is the phase of a read whose flush
has returned Ok, so that the stream primitive holds nothing (10_state.md R18; 20_memory.md R41); the opcode parameters differ
(30_encoding.md R51). -/
def State.sequencerInv (s : State) : Bool :=
  s.cfg.wellFormed &&
    match s.req with
    | none => s.phase == .idle
    | some r =>
      s.phase != .idle && s.phase.fits s.cfg.transport && r.wellFormed &&
        (s.phase != .sRead || (readLength r.op != 0 && s.held == []))

/-- Where a checker of the transport interface stands. -/
inductive Track
  /-- No call is pending and none is owed: a new operation may start. -/
  | ready
  /-- The bus transaction is pending, to deliver `m` bytes. -/
  | busPending (m : Nat)
  /-- StreamWriteAll is pending. -/
  | writePending
  /-- StreamWriteAll has returned Ok: the flush is owed. -/
  | written
  /-- StreamFlush is pending. -/
  | flushPending
  /-- StreamFlush has returned Ok: a read or a new operation may follow. -/
  | flushed
  /-- StreamReadExact is pending, to deliver `m` bytes. -/
  | readPending (m : Nat)
  deriving DecidableEq, Repr

/-- The first call of an operation (20_memory.md R33, R39; 30_encoding.md R53, R54; 41_bus_adapter.md R84): on BUS one
transaction to `target` of the lengths the table allows, on STREAM a StreamWriteAll of a frame that starts with SYNC. Always
on the instance's own handle (10_state.md R11). -/
def Track.start (c : Params) (h : Handle) (k : Call) : Option Track :=
  if h ≠ c.handle then none
  else
    match c.link, k with
    | .bus t, .busWrite t' s => if t' = t ∧ (s.length = 1 ∨ s.length = 2) then some (.busPending 0) else none
    | .bus t, .busWriteRead t' s m =>
      if t' = t ∧ s.length = 1 ∧ (m = 1 ∨ m = 3) then some (.busPending m) else none
    | .stream, .streamWriteAll s =>
      if s.head? = some Config.SYNC ∧ (s.length = 2 ∨ s.length = 3) then some .writePending else none
    | _, _ => none

/-- The checker takes one event; no value is a violation of the order of calls (20_memory.md R39, R44; 42_stream_adapter.md
R95, R97; 60_exceptions.md R113): a flush only after a write that returned Ok, a read only after a flush that returned Ok,
after an Err only a new operation, and never a call while one is pending. -/
def Track.next (c : Params) : Track → Event → Option Track
  | .ready, .call h k => Track.start c h k
  | .flushed, .call h (.streamReadExact m) =>
    if h = c.handle ∧ (m = 1 ∨ m = 3) then some (.readPending m) else none
  | .flushed, .call h k => Track.start c h k
  | .written, .call h .streamFlush => if h = c.handle then some .flushPending else none
  | .busPending m, .ret (.ok bytes) => if bytes.length = m then some .ready else none
  | .busPending _, .ret (.err _) => some .ready
  | .writePending, .ret (.ok bytes) => if bytes = [] then some .written else none
  | .writePending, .ret (.err _) => some .ready
  | .flushPending, .ret (.ok bytes) => if bytes = [] then some .flushed else none
  | .flushPending, .ret (.err _) => some .ready
  | .readPending m, .ret (.ok bytes) => if bytes.length = m then some .ready else none
  | .readPending _, .ret (.err _) => some .ready
  | _, _ => none

/-- The checker run over a trace, from construction on. -/
def track (c : Params) (es : List Event) : Option Track :=
  es.foldl (fun o e => o.bind (fun k => k.next c e)) (some .ready)

/-- Where the checker stands agrees with the phase and the latched request (10_state.md R15). -/
def Track.agrees (p : Phase) (r : Option Request) : Track → Bool
  | .ready => p == .idle
  | .flushed => p == .idle
  | .busPending m => p == .bXact && (r.map (fun q => readLength q.op) == some m)
  | .writePending => p == .sWrite
  | .flushPending => p == .sFlush
  | .readPending m => p == .sRead && (r.map (fun q => readLength q.op) == some m)
  | .written => false

/-- The trace obeys the order of calls, and while an operation runs its last event is the issue, on the instance's handle, of
exactly the call its phase says is pending. -/
def State.protocolInv (s : State) : Bool :=
  (match track s.cfg s.trace with
    | some k => k.agrees s.phase s.req
    | none => false) &&
    match s.req with
    | none => true
    | some r => s.trace.getLast? == (pendingCall s.cfg s.phase r).map (fun k => .call s.cfg.handle k)

/-- Every sample among the results has bits 31:24 zero (30_encoding.md R64; 43_sample_decoder.md R102). -/
def State.samplesUnsigned (s : State) : Prop :=
  ∀ v : Word32, Result.ok (.sample v) ∈ s.results → v.extractLsb' 24 8 = 0#8

/-- The host's duty of 70_reset_and_hazards.md R134: the last operation of a STREAM instance ended with Err, so framing has to
be restored, outside this block, before the next request. The block does not look at it: its rules run unchanged.
DESIGN CHOICE, unsafe (log 24): the spec does not say when the doubt ends but by the host's restoring, which the model does not
see, and leaves framing unspecified at construction (R132). Here the doubt ends with the next Ok result, restored or not, and
there is none at construction; so `false` does not say that framing is clean. -/
def State.framingInDoubt (s : State) : Bool :=
  s.cfg.transport == .stream &&
    match s.results.getLast? with
    | some (.err _) => true
    | some (.ok _) => false
    | none => false

end Sys2Proof.Machine
end

