-- ==== Sys2Proof/Certificates/Slice0/Obligations.lean ====
section
/-! DEFINITION. The statements for the provers. Each docstring names the rules of spec/ it formalises. -/

open Sys2Proof Sys2Proof.Machine

/-! ## Reset -/

/-- 10_state.md R24, 70_reset_and_hazards.md R130: construction of any instance leaves the configuration as it was given, with
`target` for BUS and none for STREAM, `phase` IDLE, `req` without a value, SYNC 0x55, and has made no primitive call. -/
def Obligations.ConstructionLeavesIdleWithoutRequest : Prop :=
  ∀ c : Params,
    (State.construct c).cfg = c ∧ (State.construct c).phase = .idle ∧ (State.construct c).req = none ∧
    (State.construct c).trace = [] ∧ (State.construct c).results = [] ∧ Config.SYNC = 0x55#8 ∧
    (∀ t, c.link = .bus t → c.transport = .bus ∧ c.target = some t) ∧
    (c.link = .stream → c.transport = .stream ∧ c.target = none)

/-- The invariants hold of every lawfully configured instance just constructed, and of State.reset, whose opcode parameters
are free values (log 1). -/
def Obligations.ConstructionMeetsTheInvariants : Prop :=
  (∀ c : Params, c.wellFormed = true →
    (State.construct c).sequencerInv = true ∧ (State.construct c).protocolInv = true ∧
      (State.construct c).samplesUnsigned) ∧
  State.reset.sequencerInv = true ∧ State.reset.protocolInv = true ∧ State.reset.samplesUnsigned

/-! ## What every step keeps -/

/-- 10_state.md R13, R15, R16, R18, 30_encoding.md R59, 20_memory.md R41: `State.sequencerInv` says that `req` holds no value
exactly in IDLE, the phase is one of the variant, the reserved fields of the latched request are zero, and S_READ is the phase
of a read with nothing left in the stream primitive. Every step keeps it. -/
def Obligations.StepKeepsSequencerInv : Prop :=
  ∀ s s' : State, s.sequencerInv = true → step s = .next s' → s'.sequencerInv = true

/-- 20_memory.md R39, R44, 41_bus_adapter.md R84, 42_stream_adapter.md R95, R97, 60_exceptions.md R113: the trace at the
transport interface obeys the checker `track` (first call of an operation with the lengths and the target the tables give, a
flush only after a write that returned Ok, a read only after a flush that returned Ok, no call after an Err, no call while one
is pending), and ends, while an operation runs, in the issue of the call its phase says. Every step keeps it. -/
def Obligations.StepKeepsTransportProtocol : Prop :=
  ∀ s s' : State, s.sequencerInv = true → s.protocolInv = true → step s = .next s' → s'.protocolInv = true

/-- 10_state.md R12, R14, R17: nothing writes the configuration. -/
def Obligations.StepKeepsConfiguration : Prop :=
  ∀ s s' : State, step s = .next s' → s'.cfg = s.cfg

/-- 30_encoding.md R64, 43_sample_decoder.md R102: every sample among the results has bits 31:24 zero, and every step keeps
it so. -/
def Obligations.StepKeepsSamplesUnsigned : Prop :=
  ∀ s s' : State, s.samplesUnsigned → step s = .next s' → s'.samplesUnsigned

/-- In the states of the invariant a step always answers a next state: the model's faults and its refusal are for states no
run reaches (log 16, log 18). -/
def Obligations.StepAlwaysAnswersNext : Prop :=
  ∀ s : State, s.sequencerInv = true → ∃ s', step s = .next s'

/-! ## The step and the request port -/

/-- 70_reset_and_hazards.md R136, 30_encoding.md R57: in IDLE, when what the host presents decodes to an instruction, the step
is that instruction's, at the state with the item taken. -/
def Obligations.StepRunsDecodedInstruction : Prop :=
  ∀ (s : State) (it : Item) (rest : List Item) (i : Instr),
    s.phase = .idle → s.host = it :: rest → decode s.cfg it = .ok i →
    step s = exec i { s with host := rest }

/-- 10_state.md R16, R18: while an operation runs, the step is that of the latched request's operation on the variant of the
instance. -/
def Obligations.StepRunsTheRunningOperation : Prop :=
  ∀ (s : State) (r : Request),
    s.phase ≠ .idle → s.req = some r → step s = exec (r.instr s.cfg.transport) s

/-- 10_state.md R23, 60_exceptions.md R119: no request, no activity. -/
def Obligations.IdleWithoutRequestDoesNothing : Prop :=
  ∀ s : State, s.phase = .idle → s.host = [] → step s = .next s

/-- 30_encoding.md R59: a request word with a nonzero reserved field does not decode, and when it is presented the block does
not accept it: no call, no result, IDLE. That the host goes on to its next item is the model's reading of 95_test_vectors.md
P4 (log 10). -/
def Obligations.ReservedFieldsAreRefused : Prop :=
  (∀ w : ReqWord, (∃ e, decodeRequest w = .error e) ↔
    ((opField w = 0b01#2 ∧ addrField w ≠ 0#6) ∨ (opField w = 0b10#2 ∧ dataField w ≠ 0#8) ∨
      (opField w = 0b11#2 ∧ (addrField w ≠ 0#6 ∨ dataField w ≠ 0#8)))) ∧
  (∀ (s : State) (w : ReqWord) (rest : List Item) (e : DecodeError),
    s.phase = .idle → s.host = .request w :: rest → decodeRequest w = .error e →
    step s = .next { s with host := rest })

/-- 70_reset_and_hazards.md R136: a request is taken from the host only in IDLE, `req` changes only by acceptance in IDLE or
by the end of the operation, and what the host holds while an operation runs has no effect. -/
def Obligations.RequestsAreTakenOnlyInIdle : Prop :=
  (∀ s s' : State, step s = .next s' → s'.req ≠ s.req → s.phase = .idle ∨ s'.req = none) ∧
  (∀ (s s' : State) (items : List Item), s.phase ≠ .idle → step s = .next s' →
    s'.host = s.host ∧ step { s with host := items } = .next { s' with host := items })

/-- 70_reset_and_hazards.md R136: an operation executed while another one's request is latched has no effect (log 17). -/
def Obligations.OtherOperationRunningHasNoEffect : Prop :=
  ∀ (s : State) (r q : Request), r.wellFormed = true → s.req = some q → q ≠ r → s.phase ≠ .idle →
    s.phase.fits s.cfg.transport = true → exec (r.instr s.cfg.transport) s = .next s

/-- 10_state.md R12, 41_bus_adapter.md R84, 42_stream_adapter.md R97: an instance does not have the operations of the other
variant (that the model refuses them by name is log 16), and no request word decodes to one. -/
def Obligations.OtherVariantsOperationsAreRefused : Prop :=
  (∀ (s : State) (r : Request) (t : BusAddr), s.cfg.link = .bus t →
    exec (r.instr .stream) s = .refused .operationOfOtherVariant) ∧
  (∀ (s : State) (r : Request), s.cfg.link = .stream →
    exec (r.instr .bus) s = .refused .operationOfOtherVariant) ∧
  (∀ (c : Params) (it : Item) (i : Instr), decode c it = .ok i → i.wellFormed c = true)

/-! ## The BUS operations -/

/-- 41_bus_adapter.md R80: BUS.WRREG. In IDLE it latches the request and issues the one BusWrite to `target`; Ok ends it with
Ok(Unit), Err e with CommErr(e). Nothing else changes. -/
def Obligations.BusWriteRegisterRuns : Prop :=
  ∀ (s : State) (t : BusAddr) (a : RegAddr) (v : Byte), s.cfg.link = .bus t →
    encode s.cfg (.busWrreg a v) = .request (0b00#2 ++ a ++ v) ∧
    (s.phase = .idle → exec (.busWrreg a v) s = .next
      { s with phase := .bXact, req := some { op := .wrreg, addr := a, data := v },
               trace := s.trace ++
                [.call s.cfg.handle (.busWrite t [encodeCommand s.cfg.opcodes .writeReg a, v])] }) ∧
    (s.phase = .bXact → s.req = some { op := .wrreg, addr := a, data := v } →
      (s.answer = .returns (.ok []) → exec (.busWrreg a v) s = .next
        { s.returned (.ok []) with phase := .idle, req := none, results := s.results ++ [.ok .unit] }) ∧
      (∀ e, s.answer = .returns (.err e) → exec (.busWrreg a v) s = .next
        { s.returned (.err e) with phase := .idle, req := none, results := s.results ++ [.err (.commErr e)] }) ∧
      (s.answer = .never → exec (.busWrreg a v) s = .next s))

/-- 41_bus_adapter.md R81: BUS.WRRAW. The payload goes out as it is, one byte, without ENCODE. -/
def Obligations.BusWriteRawRuns : Prop :=
  ∀ (s : State) (t : BusAddr) (p : Byte), s.cfg.link = .bus t →
    encode s.cfg (.busWrraw p) = .request (0b01#2 ++ 0#6 ++ p) ∧
    (s.phase = .idle → exec (.busWrraw p) s = .next
      { s with phase := .bXact, req := some { op := .wrraw, addr := 0#6, data := p },
               trace := s.trace ++ [.call s.cfg.handle (.busWrite t [p])] }) ∧
    (s.phase = .bXact → s.req = some { op := .wrraw, addr := 0#6, data := p } →
      (s.answer = .returns (.ok []) → exec (.busWrraw p) s = .next
        { s.returned (.ok []) with phase := .idle, req := none, results := s.results ++ [.ok .unit] }) ∧
      (∀ e, s.answer = .returns (.err e) → exec (.busWrraw p) s = .next
        { s.returned (.err e) with phase := .idle, req := none, results := s.results ++ [.err (.commErr e)] }) ∧
      (s.answer = .never → exec (.busWrraw p) s = .next s))

/-- 41_bus_adapter.md R82: BUS.RDREG. The byte the transaction answers is the result, unmodified. -/
def Obligations.BusReadRegisterRuns : Prop :=
  ∀ (s : State) (t : BusAddr) (a : RegAddr), s.cfg.link = .bus t →
    encode s.cfg (.busRdreg a) = .request (0b10#2 ++ a ++ 0#8) ∧
    (s.phase = .idle → exec (.busRdreg a) s = .next
      { s with phase := .bXact, req := some { op := .rdreg, addr := a, data := 0#8 },
               trace := s.trace ++
                [.call s.cfg.handle (.busWriteRead t [encodeCommand s.cfg.opcodes .readReg a] 1)] }) ∧
    (s.phase = .bXact → s.req = some { op := .rdreg, addr := a, data := 0#8 } →
      (∀ b, s.answer = .returns (.ok [b]) → exec (.busRdreg a) s = .next
        { s.returned (.ok [b]) with phase := .idle, req := none, results := s.results ++ [.ok (.byte b)] }) ∧
      (∀ e, s.answer = .returns (.err e) → exec (.busRdreg a) s = .next
        { s.returned (.err e) with phase := .idle, req := none, results := s.results ++ [.err (.commErr e)] }) ∧
      (s.answer = .never → exec (.busRdreg a) s = .next s))

/-- 41_bus_adapter.md R83: BUS.RDSAMPLE. The result is DECODE of the three bytes in the order received; the register field of
the command byte is 0. -/
def Obligations.BusReadSampleRuns : Prop :=
  ∀ (s : State) (t : BusAddr), s.cfg.link = .bus t →
    encode s.cfg .busRdsample = .request (0xC000#16) ∧
    (s.phase = .idle → exec .busRdsample s = .next
      { s with phase := .bXact, req := some { op := .rdsample, addr := 0#6, data := 0#8 },
               trace := s.trace ++
                [.call s.cfg.handle (.busWriteRead t [encodeCommand s.cfg.opcodes .readData 0#6] 3)] }) ∧
    (s.phase = .bXact → s.req = some { op := .rdsample, addr := 0#6, data := 0#8 } →
      (∀ b0 b1 b2, s.answer = .returns (.ok [b0, b1, b2]) → exec .busRdsample s = .next
        { s.returned (.ok [b0, b1, b2]) with
          phase := .idle, req := none, results := s.results ++ [.ok (.sample (decodeSample b0 b1 b2))] }) ∧
      (∀ e, s.answer = .returns (.err e) → exec .busRdsample s = .next
        { s.returned (.err e) with phase := .idle, req := none, results := s.results ++ [.err (.commErr e)] }) ∧
      (s.answer = .never → exec .busRdsample s = .next s))

/-! ## The STREAM operations -/

/-- 42_stream_adapter.md R90, R91: STREAM.WRREG. One StreamWriteAll of the whole frame, then StreamFlush, then Ok(Unit); no
read; an Err at either call ends it with CommErr; no answer, no change. What the step does to `held`, the model's own bound on
the stream primitive's buffer, is left open here (`hb`): StreamBufferBoundFollowsTheCalls says it. -/
def Obligations.StreamWriteRegisterRuns : Prop :=
  ∀ (s : State) (a : RegAddr) (v : Byte), s.cfg.link = .stream →
    encode s.cfg (.streamWrreg a v) = .request (0b00#2 ++ a ++ v) ∧
    (s.phase = .idle → ∃ hb, exec (.streamWrreg a v) s = .next
      { s with phase := .sWrite, req := some { op := .wrreg, addr := a, data := v },
               held := hb,
               trace := s.trace ++ [.call s.cfg.handle
                (.streamWriteAll [0x55#8, encodeCommand s.cfg.opcodes .writeReg a, v])] }) ∧
    (s.req = some { op := .wrreg, addr := a, data := v } →
      (s.phase = .sWrite → s.answer = .returns (.ok []) → exec (.streamWrreg a v) s = .next
        { s.returned (.ok []) with
          phase := .sFlush, trace := s.trace ++ [.ret (.ok []), .call s.cfg.handle .streamFlush] }) ∧
      (s.phase = .sFlush → s.answer = .returns (.ok []) → ∃ hb, exec (.streamWrreg a v) s = .next
        { s.returned (.ok []) with
          phase := .idle, req := none, held := hb, results := s.results ++ [.ok .unit] }) ∧
      (∀ e, s.phase = .sWrite ∨ s.phase = .sFlush → s.answer = .returns (.err e) →
        exec (.streamWrreg a v) s = .next
          { s.returned (.err e) with phase := .idle, req := none, results := s.results ++ [.err (.commErr e)] }) ∧
      (s.phase = .sWrite ∨ s.phase = .sFlush → s.answer = .never → exec (.streamWrreg a v) s = .next s))

/-- 42_stream_adapter.md R92: STREAM.WRRAW. The frame is the sync byte and the payload, which does not go through ENCODE. For
`hb` see StreamWriteRegisterRuns. -/
def Obligations.StreamWriteRawRuns : Prop :=
  ∀ (s : State) (p : Byte), s.cfg.link = .stream →
    encode s.cfg (.streamWrraw p) = .request (0b01#2 ++ 0#6 ++ p) ∧
    (s.phase = .idle → ∃ hb, exec (.streamWrraw p) s = .next
      { s with phase := .sWrite, req := some { op := .wrraw, addr := 0#6, data := p },
               held := hb,
               trace := s.trace ++ [.call s.cfg.handle (.streamWriteAll [0x55#8, p])] }) ∧
    (s.req = some { op := .wrraw, addr := 0#6, data := p } →
      (s.phase = .sWrite → s.answer = .returns (.ok []) → exec (.streamWrraw p) s = .next
        { s.returned (.ok []) with
          phase := .sFlush, trace := s.trace ++ [.ret (.ok []), .call s.cfg.handle .streamFlush] }) ∧
      (s.phase = .sFlush → s.answer = .returns (.ok []) → ∃ hb, exec (.streamWrraw p) s = .next
        { s.returned (.ok []) with
          phase := .idle, req := none, held := hb, results := s.results ++ [.ok .unit] }) ∧
      (∀ e, s.phase = .sWrite ∨ s.phase = .sFlush → s.answer = .returns (.err e) →
        exec (.streamWrraw p) s = .next
          { s.returned (.err e) with phase := .idle, req := none, results := s.results ++ [.err (.commErr e)] }) ∧
      (s.phase = .sWrite ∨ s.phase = .sFlush → s.answer = .never → exec (.streamWrraw p) s = .next s))

/-- 42_stream_adapter.md R93: STREAM.RDREG. Write, flush, then one read of exactly 1 byte, which is the result, unmodified.
For `hb` see StreamWriteRegisterRuns. -/
def Obligations.StreamReadRegisterRuns : Prop :=
  ∀ (s : State) (a : RegAddr), s.cfg.link = .stream →
    encode s.cfg (.streamRdreg a) = .request (0b10#2 ++ a ++ 0#8) ∧
    (s.phase = .idle → ∃ hb, exec (.streamRdreg a) s = .next
      { s with phase := .sWrite, req := some { op := .rdreg, addr := a, data := 0#8 },
               held := hb,
               trace := s.trace ++ [.call s.cfg.handle
                (.streamWriteAll [0x55#8, encodeCommand s.cfg.opcodes .readReg a])] }) ∧
    (s.req = some { op := .rdreg, addr := a, data := 0#8 } →
      (s.phase = .sWrite → s.answer = .returns (.ok []) → exec (.streamRdreg a) s = .next
        { s.returned (.ok []) with
          phase := .sFlush, trace := s.trace ++ [.ret (.ok []), .call s.cfg.handle .streamFlush] }) ∧
      (s.phase = .sFlush → s.answer = .returns (.ok []) → ∃ hb, exec (.streamRdreg a) s = .next
        { s.returned (.ok []) with
          phase := .sRead, held := hb,
          trace := s.trace ++ [.ret (.ok []), .call s.cfg.handle (.streamReadExact 1)] }) ∧
      (∀ b, s.phase = .sRead → s.answer = .returns (.ok [b]) → exec (.streamRdreg a) s = .next
        { s.returned (.ok [b]) with
          phase := .idle, req := none, results := s.results ++ [.ok (.byte b)] }) ∧
      (∀ e, s.phase = .sWrite ∨ s.phase = .sFlush ∨ s.phase = .sRead → s.answer = .returns (.err e) →
        exec (.streamRdreg a) s = .next
          { s.returned (.err e) with phase := .idle, req := none, results := s.results ++ [.err (.commErr e)] }) ∧
      (s.phase = .sWrite ∨ s.phase = .sFlush ∨ s.phase = .sRead → s.answer = .never → exec (.streamRdreg a) s = .next s))

/-- 42_stream_adapter.md R94: STREAM.RDSAMPLE. Write, flush, then one read of exactly 3 bytes; the result is DECODE of them in
the order received. For `hb` see StreamWriteRegisterRuns. -/
def Obligations.StreamReadSampleRuns : Prop :=
  ∀ s : State, s.cfg.link = .stream →
    encode s.cfg .streamRdsample = .request (0xC000#16) ∧
    (s.phase = .idle → ∃ hb, exec .streamRdsample s = .next
      { s with phase := .sWrite, req := some { op := .rdsample, addr := 0#6, data := 0#8 },
               held := hb,
               trace := s.trace ++ [.call s.cfg.handle
                (.streamWriteAll [0x55#8, encodeCommand s.cfg.opcodes .readData 0#6])] }) ∧
    (s.req = some { op := .rdsample, addr := 0#6, data := 0#8 } →
      (s.phase = .sWrite → s.answer = .returns (.ok []) → exec .streamRdsample s = .next
        { s.returned (.ok []) with
          phase := .sFlush, trace := s.trace ++ [.ret (.ok []), .call s.cfg.handle .streamFlush] }) ∧
      (s.phase = .sFlush → s.answer = .returns (.ok []) → ∃ hb, exec .streamRdsample s = .next
        { s.returned (.ok []) with
          phase := .sRead, held := hb,
          trace := s.trace ++ [.ret (.ok []), .call s.cfg.handle (.streamReadExact 3)] }) ∧
      (∀ b0 b1 b2, s.phase = .sRead → s.answer = .returns (.ok [b0, b1, b2]) → exec .streamRdsample s = .next
        { s.returned (.ok [b0, b1, b2]) with
          phase := .idle, req := none, results := s.results ++ [.ok (.sample (decodeSample b0 b1 b2))] }) ∧
      (∀ e, s.phase = .sWrite ∨ s.phase = .sFlush ∨ s.phase = .sRead → s.answer = .returns (.err e) →
        exec .streamRdsample s = .next
          { s.returned (.err e) with phase := .idle, req := none, results := s.results ++ [.err (.commErr e)] }) ∧
      (s.phase = .sWrite ∨ s.phase = .sFlush ∨ s.phase = .sRead → s.answer = .never → exec .streamRdsample s = .next s))

/-- 10_state.md R20, 20_memory.md R35, R41: what the stream primitive may hold. The bound `held` is the model's choice
(log 14): a frame handed to StreamWriteAll is added to it, whatever the call then returns; a flush that returns Ok empties it;
nothing else changes it, and nothing depends on it (HistoryDoesNotAffectTheStep). -/
def Obligations.StreamBufferBoundFollowsTheCalls : Prop :=
  ∀ (s s' : State) (r : Request), s.sequencerInv = true → step s = .next s' →
    (s.phase = .idle → s'.phase = .sWrite → s'.req = some r →
      s'.held = s.held ++ (0x55#8 :: writePhase s.cfg.opcodes r)) ∧
    (s.phase = .idle → s'.phase ≠ .sWrite → s'.held = s.held) ∧
    (s.phase = .sFlush → s.answer = .returns (.ok []) → s'.held = []) ∧
    (s.phase = .bXact ∨ s.phase = .sWrite ∨ s.phase = .sRead → s'.held = s.held) ∧
    (s.phase = .sFlush → (∀ e, s.answer = .returns (.err e) → s'.held = s.held) ∧
      (s.answer = .never → s'.held = s.held))

/-! ## Whole operations, errors, and the hang -/

/-- 00_scope.md R8 with 20_memory.md R39 and 60_exceptions.md R113: an operation is the function `opRun` of its request, its
configuration and what its primitive calls return. Presented in IDLE to an environment that returns `used`, it takes one step
for its acceptance and one for each return, and leaves exactly the events and the result of `opRun`; the configuration, the
host's other items and the rest of the environment's answers are as before. -/
def Obligations.OperationIsFunctionOfRequestAndReturns : Prop :=
  ∀ (s : State) (r : Request) (items : List Item) (used : List Return) (later : List Answer) (es : List Event)
    (res : Result),
    s.phase = .idle → s.req = none → r.wellFormed = true → s.host = .request (encodeRequest r) :: items →
    s.env = used.map Answer.returns ++ later →
    opRun s.cfg.handle r.op (opCalls s.cfg r) used = some (es, res) → es.length = 2 * used.length →
    ∃ t, Host.Core.run core (used.length + 1) s = .next t ∧ t.cfg = s.cfg ∧ t.phase = .idle ∧ t.req = none ∧
      t.host = items ∧ t.env = later ∧ t.draws = s.draws ∧ t.trace = s.trace ++ es ∧ t.results = s.results ++ [res] ∧
      t.comb = s.comb

/-- 10_state.md R13, 41_bus_adapter.md R85, 60_exceptions.md R116: an operation leaves no state behind, and what went before
does not matter. Two states that agree on the configuration, the phase, the latched request, what the host presents and what
the environment answers step alike: the same new phase and request, the same events and results added, whatever calls,
results, failures and bytes lie behind them. -/
def Obligations.HistoryDoesNotAffectTheStep : Prop :=
  (∀ s s' : State, s.sequencerInv = true → step s = .next s' → s'.results ≠ s.results →
    s'.phase = .idle ∧ s'.req = none) ∧
  ∀ s u s' : State, s.cfg = u.cfg → s.phase = u.phase → s.req = u.req → s.host = u.host → s.env = u.env →
    s.draws = u.draws → step s = .next s' →
    ∃ u' es rs, step u = .next u' ∧ s'.trace = s.trace ++ es ∧ u'.trace = u.trace ++ es ∧
      s'.results = s.results ++ rs ∧ u'.results = u.results ++ rs ∧
      s'.cfg = u'.cfg ∧ s'.phase = u'.phase ∧ s'.req = u'.req ∧ s'.host = u'.host ∧ s'.env = u'.env ∧
      s'.draws = u'.draws

/-- 60_exceptions.md R113: fail fast. When the pending call returns Err e, in any phase of any operation, the step ends the
operation with Err(CommErr(e)), goes to IDLE, makes no further call, and changes nothing else. -/
def Obligations.ErrEndsTheOperationAtOnce : Prop :=
  ∀ (s : State) (e : TErr), s.sequencerInv = true → s.phase ≠ .idle → s.answer = .returns (.err e) →
    step s = .next { s with
      phase := .idle, req := none, env := s.env.tail, draws := if s.env = [] then s.draws + 1 else s.draws,
      trace := s.trace ++ [.ret (.err e)], results := s.results ++ [.err (.commErr e)] }

/-- 60_exceptions.md R110, R111, R112: a CommErr result arises only from a primitive call that returned Err, and carries the
transport's error unchanged. -/
def Obligations.CommErrComesFromTheTransport : Prop :=
  ∀ (s s' : State) (x : OpError), step s = .next s' → s'.results = s.results ++ [.err x] →
    ∃ e, x = .commErr e ∧ s.phase ≠ .idle ∧ s.answer = .returns (.err e) ∧ s'.trace = s.trace ++ [.ret (.err e)]

/-- 60_exceptions.md R118, R123: a primitive that never returns keeps the operation running for ever; nothing changes. -/
def Obligations.PendingCallThatNeverReturnsHangs : Prop :=
  ∀ (s : State) (n : Nat), s.sequencerInv = true → s.phase ≠ .idle → s.answer = .never →
    Host.Core.run core n s = .next s

/-- 30_encoding.md R64: each operation produces exactly one result, when it ends. A step adds one result if it goes from a
running operation to IDLE, and else none. -/
def Obligations.OneResultWhenAnOperationEnds : Prop :=
  ∀ s s' : State, s.sequencerInv = true → step s = .next s' →
    (s.phase ≠ .idle ∧ s'.phase = .idle ∧ ∃ r, s'.results = s.results ++ [r]) ∨
    ((s.phase = .idle ∨ s'.phase ≠ .idle) ∧ s'.results = s.results)

/-- 10_state.md R18: the table of the sequencer. `phase` advances only when the pending call returns; each row's new phase and
result; entering IDLE clears `req`. A return the pending call cannot have is none (log 7). -/
def Obligations.PhaseFollowsTheTable : Prop :=
  ∀ (s s' : State) (r : Request), s.sequencerInv = true → s.req = some r → step s = .next s' →
    (s.served = false ∧ s' = s) ∨
    (s.served = true ∧ ∃ e, s.answer = .returns (.err e) ∧
      s'.phase = .idle ∧ s'.req = none ∧ s'.results = s.results ++ [.err (.commErr e)]) ∨
    (s.served = true ∧ ∃ bytes, s.answer = .returns (.ok bytes) ∧
      ((s.phase = .bXact ∧ s'.phase = .idle ∧ s'.req = none ∧
          ∃ v, opValue r.op bytes = some v ∧ s'.results = s.results ++ [.ok v]) ∨
       (s.phase = .sWrite ∧ s'.phase = .sFlush ∧ s'.req = s.req ∧ s'.results = s.results) ∨
       (s.phase = .sFlush ∧ (r.op = .wrreg ∨ r.op = .wrraw) ∧ s'.phase = .idle ∧ s'.req = none ∧
          s'.results = s.results ++ [.ok .unit]) ∨
       (s.phase = .sFlush ∧ (r.op = .rdreg ∨ r.op = .rdsample) ∧ s'.phase = .sRead ∧ s'.req = s.req ∧
          s'.results = s.results) ∨
       (s.phase = .sRead ∧ s'.phase = .idle ∧ s'.req = none ∧
          ∃ v, opValue r.op bytes = some v ∧ s'.results = s.results ++ [.ok v])))

/-- 42_stream_adapter.md R95, 20_memory.md R41: a STREAM operation that returns Ok has called StreamFlush and received Ok, so
that nothing of its frame is left in the stream primitive. `held` is the model's bound on that buffer (log 14). -/
def Obligations.StreamOkMeansFlushed : Prop :=
  ∀ (s s' : State) (v : Value), s.sequencerInv = true → s.cfg.transport = .stream → step s = .next s' →
    s'.results = s.results ++ [.ok v] → s'.held = []

/-- 70_reset_and_hazards.md R139: whether an operation ends rests only on the environment. With the premise that every call
pending in the next three steps is answered by a return it can have, a running operation ends within three steps, with one
result. -/
def Obligations.AnsweredOperationEndsWithinThreeSteps : Prop :=
  ∀ s : State, s.sequencerInv = true → s.phase ≠ .idle →
    (∀ n t, n < 3 → Host.Core.run core n s = .next t → t.phase ≠ .idle → t.served = true) →
    ∃ n t r, n ≤ 3 ∧ Host.Core.run core n s = .next t ∧ t.phase = .idle ∧ t.req = none ∧ t.host = s.host ∧
      t.results = s.results ++ [r]

/-- 20_memory.md R36 with log 6: the answer to a call is the next one written out, and where none is written out a free value
of which nothing is known; each is used once. -/
def Obligations.AnswersAreUsedOnce : Prop :=
  (∀ (s : State) (a : Answer) (later : List Answer) (r : Return), s.env = a :: later →
    s.answer = a ∧ (s.returned r).env = later ∧ (s.returned r).draws = s.draws) ∧
  (∀ (s : State) (r : Return), s.env = [] →
    s.answer = Config.freeAnswer s.draws ∧ (s.returned r).env = [] ∧ (s.returned r).draws = s.draws + 1)

/-! ## The command encoder -/

/-- 40_command_encoder.md R71, R72, R73: what the encoder drives for the three command rows. That it is given its input by
itself and that `comb` records the output is the model's choice (log 11). No other field changes. -/
def Obligations.CommandRowsDriveTheCommandByte : Prop :=
  ∀ (s : State) (a : RegAddr),
    exec (.cmdWreg a) s = .next
      { s with comb := some (.command (s.cfg.opcodes.wreg.setWidth 8 ||| (a.setWidth 8 <<< 2))) } ∧
    exec (.cmdRreg a) s = .next
      { s with comb := some (.command (s.cfg.opcodes.rreg.setWidth 8 ||| (a.setWidth 8 <<< 2))) } ∧
    exec .cmdRdata s = .next { s with comb := some (.command (s.cfg.opcodes.rdata.setWidth 8)) }

/-- 30_encoding.md R50, 40_command_encoder.md R70: `cmd = opc(k) | (addr << 2)` in 8 bits, so `cmd[1:0] = opc(k)` and `cmd[7:2] = addr`. -/
def Obligations.EncodeHasTheCommandByteFields : Prop :=
  ∀ (o : Opcodes) (k : Kind) (a : RegAddr),
    encodeCommand o k a = ((o.opc k).setWidth 8 ||| (a.setWidth 8 <<< 2)) ∧
    (encodeCommand o k a).extractLsb' 0 2 = o.opc k ∧ (encodeCommand o k a).extractLsb' 2 6 = a

/-- 40_command_encoder.md R74: (a) for one kind distinct addresses, (b) for one address distinct kinds, (c) over all pairs,
(d) the layout, also as a sum (R70: the fields do not overlap). -/
def Obligations.EncodeIsInjective : Prop :=
  (∀ (o : Opcodes) (k : Kind) (a1 a2 : RegAddr), a1 ≠ a2 → encodeCommand o k a1 ≠ encodeCommand o k a2) ∧
  (∀ (o : Opcodes) (k1 k2 : Kind) (a : RegAddr), o.lawful → k1 ≠ k2 → encodeCommand o k1 a ≠ encodeCommand o k2 a) ∧
  (∀ (o : Opcodes) (k1 k2 : Kind) (a1 a2 : RegAddr), o.lawful → encodeCommand o k1 a1 = encodeCommand o k2 a2 →
    k1 = k2 ∧ a1 = a2) ∧
  (∀ (o : Opcodes) (k : Kind) (a : RegAddr), (encodeCommand o k a).toNat = (o.opc k).toNat + 4 * a.toNat)

/-- 30_encoding.md R65: a byte is the command of kind k at its bits 7:2 exactly when its bits 1:0 are opc(k), and for ReadData
bits 7:2 are 0; at most one kind matches. -/
def Obligations.CommandByteReadsBack : Prop :=
  ∀ (o : Opcodes) (c : Byte) (k : Kind) (a : RegAddr), o.lawful →
    (readCommand o c = .ok (k, a) ↔
      c.extractLsb' 0 2 = o.opc k ∧ a = c.extractLsb' 2 6 ∧ (k = .readData → a = 0#6))

/-- 30_encoding.md R60: with lawful parameters one 2-bit value is no kind's opcode, and ENCODE never produces a byte whose bits
1:0 hold it. -/
def Obligations.OneOpcodeValueIsNeverEncoded : Prop :=
  ∀ o : Opcodes, o.lawful →
    ∃ x : Opcode, (∀ k, o.opc k ≠ x) ∧ (∀ k a, (encodeCommand o k a).extractLsb' 0 2 ≠ x) ∧
      (∀ y : Opcode, (∀ k, o.opc k ≠ y) → y = x)

/-- 30_encoding.md R66: where an opcode is 1, ENCODE at address 21 is 0x55; and write-raw of 0x55 is sent unchanged, unescaped,
on both variants. -/
def Obligations.SyncValueMayFollowInAFrame : Prop :=
  (∀ (o : Opcodes) (k : Kind), o.opc k = 1#2 → encodeCommand o k 21#6 = 0x55#8) ∧
  (∀ s : State, s.phase = .idle → s.cfg.link = .stream → ∃ t, exec (.streamWrraw 0x55#8) s = .next t ∧
    t.trace = s.trace ++ [.call s.cfg.handle (.streamWriteAll [0x55#8, 0x55#8])]) ∧
  (∀ (s : State) (b : BusAddr), s.phase = .idle → s.cfg.link = .bus b → ∃ t, exec (.busWrraw 0x55#8) s = .next t ∧
    t.trace = s.trace ++ [.call s.cfg.handle (.busWrite b [0x55#8])])

/-! ## The sample decoder and the sync byte -/

/-- 43_sample_decoder.md R100: the four fields of the result, and the result as a sum. -/
def Obligations.DecodeHasTheSampleFields : Prop :=
  ∀ b0 b1 b2 : Byte,
    decodeSample b0 b1 b2 = ((b0.setWidth 32 <<< 16) ||| (b1.setWidth 32 <<< 8) ||| b2.setWidth 32) ∧
    (decodeSample b0 b1 b2).extractLsb' 24 8 = 0#8 ∧ (decodeSample b0 b1 b2).extractLsb' 16 8 = b0 ∧
    (decodeSample b0 b1 b2).extractLsb' 8 8 = b1 ∧ (decodeSample b0 b1 b2).extractLsb' 0 8 = b2 ∧
    (decodeSample b0 b1 b2).toNat = b0.toNat * 65536 + b1.toNat * 256 + b2.toNat

/-- 43_sample_decoder.md R101: DECODE is a bijection from byte triples onto 0x00000000..0x00FFFFFF (the spec derives it from
R100). -/
def Obligations.DecodeIsBijective : Prop :=
  (∀ v : Word32, v.toNat ≤ 0x00FFFFFF ↔ ∃ b0 b1 b2, decodeSample b0 b1 b2 = v) ∧
  (∀ b0 b1 b2 c0 c1 c2 : Byte, decodeSample b0 b1 b2 = decodeSample c0 c1 c2 → b0 = c0 ∧ b1 = c1 ∧ b2 = c2)

/-- 43_sample_decoder.md R102: no sign extension; a first byte with bit 7 set gives 0x00800000..0x00FFFFFF, and bits 31:24
are 0 whatever the bytes. -/
def Obligations.DecodeNeverSignExtends : Prop :=
  ∀ b0 b1 b2 : Byte,
    (decodeSample b0 b1 b2).extractLsb' 24 8 = 0#8 ∧
    (b0.getLsbD 7 = true →
      0x00800000 ≤ (decodeSample b0 b1 b2).toNat ∧ (decodeSample b0 b1 b2).toNat ≤ 0x00FFFFFF)

/-- 43_sample_decoder.md R103: swapping any two unequal input bytes changes the result; the document's three values. -/
def Obligations.DecodeIsOrderSensitive : Prop :=
  (∀ b0 b1 b2 : Byte,
    (b0 ≠ b1 → decodeSample b1 b0 b2 ≠ decodeSample b0 b1 b2) ∧
    (b0 ≠ b2 → decodeSample b2 b1 b0 ≠ decodeSample b0 b1 b2) ∧
    (b1 ≠ b2 → decodeSample b0 b2 b1 ≠ decodeSample b0 b1 b2)) ∧
  decodeSample 0x01#8 0x02#8 0x03#8 = 0x00010203#32 ∧
  decodeSample 0xFF#8 0xFF#8 0xFF#8 = 0x00FFFFFF#32 ∧
  decodeSample 0x00#8 0x00#8 0x01#8 = 1#32

/-- 43_sample_decoder.md R100, 30_encoding.md R53: what the decoder drives for a sample response, and SYNC. That each is given
by itself and that `comb` records the output is the model's choice (log 11). No other field changes. -/
def Obligations.ResponseAndSyncRowsDriveTheirValue : Prop :=
  ∀ (s : State) (b0 b1 b2 : Byte),
    exec (.sampleResponse b0 b1 b2) s = .next
      { s with comb := some (.sample ((b0.setWidth 32 <<< 16) ||| (b1.setWidth 32 <<< 8) ||| b2.setWidth 32)) } ∧
    exec .sync s = .next { s with comb := some (.sync 0x55#8) }

/-! ## Encodings -/

/-- Decoding what encodes a well-formed instruction gives it back, for every row of the opcode table, every operand and every
lawful configuration. -/
def Obligations.DecodeOfEncodeIsTheInstruction : Prop :=
  ∀ (c : Params) (i : Instr), c.wellFormed = true → i.wellFormed c = true → decode c (encode c i) = .ok i

/-- What decodes to an instruction is its encoding: no item but one means an instruction. -/
def Obligations.EncodeOfDecodeIsTheItem : Prop :=
  ∀ (c : Params) (it : Item) (i : Instr), decode c it = .ok i → encode c i = it

/-- 30_encoding.md R57, R58: the fields of a request word and the four OP values, on both variants. -/
def Obligations.RequestWordsHaveTheirFields : Prop :=
  ∀ (c : Params) (w : ReqWord),
    (w.extractLsb' 14 2 = 0b00#2 → decode c (.request w) =
      .ok (match c.link with
        | .bus _ => .busWrreg (w.extractLsb' 8 6) (w.extractLsb' 0 8)
        | .stream => .streamWrreg (w.extractLsb' 8 6) (w.extractLsb' 0 8))) ∧
    (w.extractLsb' 14 2 = 0b01#2 → w.extractLsb' 8 6 = 0#6 → decode c (.request w) =
      .ok (match c.link with
        | .bus _ => .busWrraw (w.extractLsb' 0 8)
        | .stream => .streamWrraw (w.extractLsb' 0 8))) ∧
    (w.extractLsb' 14 2 = 0b10#2 → w.extractLsb' 0 8 = 0#8 → decode c (.request w) =
      .ok (match c.link with
        | .bus _ => .busRdreg (w.extractLsb' 8 6)
        | .stream => .streamRdreg (w.extractLsb' 8 6))) ∧
    (w.extractLsb' 14 2 = 0b11#2 → w.extractLsb' 8 6 = 0#6 → w.extractLsb' 0 8 = 0#8 → decode c (.request w) =
      .ok (match c.link with
        | .bus _ => .busRdsample
        | .stream => .streamRdsample))

/-- 30_encoding.md R61, R63: the assembler gives the encoding of the request, and refuses, without truncating, an address of 64
or more and a byte of 256 or more; a refused number changes nothing at the port (log 19). -/
def Obligations.AssemblerRefusesWhatDoesNotFit : Prop :=
  (∀ (a : RegAddr) (v : Byte),
    assemble (.wrreg a.toNat v.toNat) = some (encodeRequest { op := .wrreg, addr := a, data := v }) ∧
    assemble (.wrraw v.toNat) = some (encodeRequest { op := .wrraw, addr := 0#6, data := v }) ∧
    assemble (.rdreg a.toNat) = some (encodeRequest { op := .rdreg, addr := a, data := 0#8 })) ∧
  assemble .rdsample = some (encodeRequest { op := .rdsample, addr := 0#6, data := 0#8 }) ∧
  (∀ a v p : Nat,
    (64 ≤ a → assemble (.wrreg a v) = none ∧ assemble (.rdreg a) = none) ∧
    (256 ≤ v → assemble (.wrreg a v) = none) ∧ (256 ≤ p → assemble (.wrraw p) = none)) ∧
  (∀ (s : State) (l : Asm), assemble l = none → s.submit l = s)

/-- Words written out from the spec (95_test_vectors.md V-Q1 to V-Q11, table 2.1) decode to what they stand for, on a STREAM
and a BUS instance with the opcodes 1, 2, 3, a lawful choice that is the statement's own. -/
def Obligations.WrittenOutWordsDecode : Prop :=
  ∀ (h : Handle) (t : BusAddr),
    let o : Opcodes := { wreg := 1#2, rreg := 2#2, rdata := 3#2 }
    let bus : Params := { link := .bus t, handle := h, opcodes := o }
    let stream : Params := { link := .stream, handle := h, opcodes := o }
    decode stream (.request 0x0542#16) = .ok (.streamWrreg 5#6 0x42#8) ∧
    decode bus (.request 0x3FFF#16) = .ok (.busWrreg 63#6 0xFF#8) ∧
    decode stream (.request 0x4006#16) = .ok (.streamWrraw 0x06#8) ∧
    decode bus (.request 0xBF00#16) = .ok (.busRdreg 63#6) ∧
    decode bus (.request 0xC000#16) = .ok .busRdsample ∧
    decode bus (.request 0x4106#16) = .error .reservedAddr ∧
    decode bus (.request 0x8701#16) = .error .reservedData ∧
    decode stream (.request 0xC0FF#16) = .error .reservedData ∧
    decode bus (.command 0x15#8) = .ok (.cmdWreg 5#6) ∧
    decode bus (.command 0x1E#8) = .ok (.cmdRreg 7#6) ∧
    decode bus (.command 0x03#8) = .ok .cmdRdata ∧
    decode bus (.response 0x010203#24) = .ok (.sampleResponse 0x01#8 0x02#8 0x03#8) ∧
    decode bus (.sync 0x55#8) = .ok .sync

/-- 30_encoding.md R64: the hardware view of the four results: status, the byte widened with zeros, the sample as it is, the
transport's error unchanged; for Ok(Unit) no data. -/
def Obligations.ResultPortViewOfResults : Prop :=
  (Result.ok .unit).status = .ok ∧ (Result.ok .unit).dataLines = none ∧
  (∀ b : Byte, (Result.ok (.byte b)).status = .ok ∧ (Result.ok (.byte b)).dataLines = some (b.setWidth 32) ∧
    (b.setWidth 32).toNat = b.toNat) ∧
  (∀ v : Word32, (Result.ok (.sample v)).status = .ok ∧ (Result.ok (.sample v)).dataLines = some v) ∧
  (∀ e : TErr, (Result.err (.commErr e)).status = .err ∧ (Result.err (.commErr e)).errLine = some e ∧
    (Result.err (.commErr e)).dataLines = none)
end

