-- ==== Sys2Proof/Laws/State.lean ====
section
/-! SUPPORT. One lemma per field of State per update: an operation on the state writes the fields it names and leaves the
others. -/

namespace Sys2Proof.Machine

section
variable (s : State) (p : Phase) (k : Call) (r : Request) (res : Result) (ret : Return) (bs : List Byte) (o : CombOut)

@[simp] theorem State.issue_cfg : (s.issue p k).cfg = s.cfg := rfl
@[simp] theorem State.issue_phase : (s.issue p k).phase = p := rfl
@[simp] theorem State.issue_req : (s.issue p k).req = s.req := rfl
@[simp] theorem State.issue_host : (s.issue p k).host = s.host := rfl
@[simp] theorem State.issue_env : (s.issue p k).env = s.env := rfl
@[simp] theorem State.issue_draws : (s.issue p k).draws = s.draws := rfl
@[simp] theorem State.issue_held : (s.issue p k).held = s.held := rfl
@[simp] theorem State.issue_trace : (s.issue p k).trace = s.trace ++ [.call s.cfg.handle k] := rfl
@[simp] theorem State.issue_results : (s.issue p k).results = s.results := rfl
@[simp] theorem State.issue_comb : (s.issue p k).comb = s.comb := rfl

@[simp] theorem State.accept_cfg : (s.accept r p k).cfg = s.cfg := rfl
@[simp] theorem State.accept_phase : (s.accept r p k).phase = p := rfl
@[simp] theorem State.accept_req : (s.accept r p k).req = some r := rfl
@[simp] theorem State.accept_host : (s.accept r p k).host = s.host := rfl
@[simp] theorem State.accept_env : (s.accept r p k).env = s.env := rfl
@[simp] theorem State.accept_draws : (s.accept r p k).draws = s.draws := rfl
@[simp] theorem State.accept_held : (s.accept r p k).held = s.held := rfl
@[simp] theorem State.accept_trace : (s.accept r p k).trace = s.trace ++ [.call s.cfg.handle k] := rfl
@[simp] theorem State.accept_results : (s.accept r p k).results = s.results := rfl
@[simp] theorem State.accept_comb : (s.accept r p k).comb = s.comb := rfl

@[simp] theorem State.finish_cfg : (s.finish res).cfg = s.cfg := rfl
@[simp] theorem State.finish_phase : (s.finish res).phase = .idle := rfl
@[simp] theorem State.finish_req : (s.finish res).req = none := rfl
@[simp] theorem State.finish_host : (s.finish res).host = s.host := rfl
@[simp] theorem State.finish_env : (s.finish res).env = s.env := rfl
@[simp] theorem State.finish_draws : (s.finish res).draws = s.draws := rfl
@[simp] theorem State.finish_held : (s.finish res).held = s.held := rfl
@[simp] theorem State.finish_trace : (s.finish res).trace = s.trace := rfl
@[simp] theorem State.finish_results : (s.finish res).results = s.results ++ [res] := rfl
@[simp] theorem State.finish_comb : (s.finish res).comb = s.comb := rfl

@[simp] theorem State.returned_cfg : (s.returned ret).cfg = s.cfg := rfl
@[simp] theorem State.returned_phase : (s.returned ret).phase = s.phase := rfl
@[simp] theorem State.returned_req : (s.returned ret).req = s.req := rfl
@[simp] theorem State.returned_host : (s.returned ret).host = s.host := rfl
@[simp] theorem State.returned_env : (s.returned ret).env = s.env.tail := rfl
@[simp] theorem State.returned_held : (s.returned ret).held = s.held := rfl
@[simp] theorem State.returned_trace : (s.returned ret).trace = s.trace ++ [.ret ret] := rfl
@[simp] theorem State.returned_results : (s.returned ret).results = s.results := rfl
@[simp] theorem State.returned_comb : (s.returned ret).comb = s.comb := rfl

@[simp] theorem State.hand_cfg : (s.hand bs).cfg = s.cfg := rfl
@[simp] theorem State.hand_phase : (s.hand bs).phase = s.phase := rfl
@[simp] theorem State.hand_req : (s.hand bs).req = s.req := rfl
@[simp] theorem State.hand_host : (s.hand bs).host = s.host := rfl
@[simp] theorem State.hand_env : (s.hand bs).env = s.env := rfl
@[simp] theorem State.hand_draws : (s.hand bs).draws = s.draws := rfl
@[simp] theorem State.hand_held : (s.hand bs).held = s.held ++ bs := rfl
@[simp] theorem State.hand_trace : (s.hand bs).trace = s.trace := rfl
@[simp] theorem State.hand_results : (s.hand bs).results = s.results := rfl
@[simp] theorem State.hand_comb : (s.hand bs).comb = s.comb := rfl

@[simp] theorem State.flushed_cfg : s.flushed.cfg = s.cfg := rfl
@[simp] theorem State.flushed_phase : s.flushed.phase = s.phase := rfl
@[simp] theorem State.flushed_req : s.flushed.req = s.req := rfl
@[simp] theorem State.flushed_host : s.flushed.host = s.host := rfl
@[simp] theorem State.flushed_env : s.flushed.env = s.env := rfl
@[simp] theorem State.flushed_draws : s.flushed.draws = s.draws := rfl
@[simp] theorem State.flushed_held : s.flushed.held = [] := rfl
@[simp] theorem State.flushed_trace : s.flushed.trace = s.trace := rfl
@[simp] theorem State.flushed_results : s.flushed.results = s.results := rfl
@[simp] theorem State.flushed_comb : s.flushed.comb = s.comb := rfl

@[simp] theorem State.drive_cfg : (s.drive o).cfg = s.cfg := rfl
@[simp] theorem State.drive_phase : (s.drive o).phase = s.phase := rfl
@[simp] theorem State.drive_req : (s.drive o).req = s.req := rfl
@[simp] theorem State.drive_host : (s.drive o).host = s.host := rfl
@[simp] theorem State.drive_env : (s.drive o).env = s.env := rfl
@[simp] theorem State.drive_draws : (s.drive o).draws = s.draws := rfl
@[simp] theorem State.drive_held : (s.drive o).held = s.held := rfl
@[simp] theorem State.drive_trace : (s.drive o).trace = s.trace := rfl
@[simp] theorem State.drive_results : (s.drive o).results = s.results := rfl
@[simp] theorem State.drive_comb : (s.drive o).comb = some o := rfl

end

/-- An answer that is written out is used up and counts no draw. -/
theorem State.returned_draws_of_cons {s : State} {a : Answer} {rest : List Answer} (h : s.env = a :: rest) (r : Return) :
    (s.returned r).draws = s.draws := by
  simp [State.returned, h]

/-- A free draw is counted. -/
theorem State.returned_draws_of_nil {s : State} (h : s.env = []) (r : Return) : (s.returned r).draws = s.draws + 1 := by
  simp [State.returned, h]

theorem State.answer_of_cons {s : State} {a : Answer} {rest : List Answer} (h : s.env = a :: rest) : s.answer = a := by
  simp [State.answer, h]

theorem State.answer_of_nil {s : State} (h : s.env = []) : s.answer = Config.freeAnswer s.draws := by
  simp [State.answer, h]

end Sys2Proof.Machine
end

