-- ==== Sys2Proof/Laws/Ops.lean ====
section
/-! SUPPORT. What the shared operations can do, said once: the wait for a call, the two sequences, what an operation of a
request is, and the bit fields. -/

namespace Sys2Proof.Machine

/-- The wait for the pending call: nothing happens, or CommErr is raised on Err, or it goes on with the value of the
bytes. -/
theorem State.await_cases (s : State) (resp : List Byte → Option Value) (k : Value → State → State) :
    (s.await resp k = s ∧
      (s.answer = .never ∨ ∃ bytes, s.answer = .returns (.ok bytes) ∧ resp bytes = none)) ∨
    (∃ e, s.answer = .returns (.err e) ∧ s.await resp k = (s.returned (.err e)).raiseCommErr e) ∨
    (∃ bytes v, s.answer = .returns (.ok bytes) ∧ resp bytes = some v ∧
      s.await resp k = k v (s.returned (.ok bytes))) := by
  unfold State.await
  split
  · exact .inl ⟨rfl, .inl (by assumption)⟩
  · exact .inr (.inl ⟨_, by assumption, rfl⟩)
  · rename_i bytes ha
    split
    · exact .inr (.inr ⟨bytes, _, ha, by assumption, rfl⟩)
    · exact .inl ⟨rfl, .inr ⟨bytes, ha, by assumption⟩⟩

theorem State.await_never {s : State} (h : s.answer = .never) (resp : List Byte → Option Value)
    (k : Value → State → State) : s.await resp k = s := by
  simp [State.await, h]

theorem State.await_err {s : State} {e : TErr} (h : s.answer = .returns (.err e)) (resp : List Byte → Option Value)
    (k : Value → State → State) : s.await resp k = (s.returned (.err e)).raiseCommErr e := by
  simp [State.await, h]

theorem State.await_ok {s : State} {bytes : List Byte} {v : Value} {resp : List Byte → Option Value}
    (h : s.answer = .returns (.ok bytes)) (hv : resp bytes = some v) (k : Value → State → State) :
    s.await resp k = k v (s.returned (.ok bytes)) := by
  simp [State.await, h, hv]

/-- What a BUS operation answers when it answers a next state. -/
theorem busOp_next_cases {r : Request} {call : BusAddr → Call} {resp : List Byte → Option Value} {s t : State}
    (h : busOp r call resp s = .next t) :
    ∃ target, s.cfg.link = .bus target ∧
      ((s.phase = .idle ∧ t = s.accept r .bXact (call target)) ∨
       (s.phase = .bXact ∧ s.req = some r ∧ t = s.await resp (fun v u => u.finish (.ok v))) ∨
       (s.phase = .bXact ∧ s.req ≠ some r ∧ t = s)) := by
  unfold busOp at h
  split at h
  · cases h
  · refine ⟨_, by assumption, ?_⟩
    split at h
    · cases h; exact .inl ⟨by assumption, rfl⟩
    · cases h
      by_cases hr : s.req = some r
      · exact .inr (.inl ⟨by assumption, hr, by simp [hr]⟩)
      · exact .inr (.inr ⟨by assumption, hr, by simp [hr]⟩)
    · cases h
    · cases h
    · cases h

/-- What a STREAM operation answers when it answers a next state. -/
theorem streamOp_next_cases {r : Request} {frame : List Byte} {m : Nat} {resp : List Byte → Option Value} {s t : State}
    (h : streamOp r frame m resp s = .next t) :
    s.cfg.link = .stream ∧
      ((s.phase = .idle ∧ t = (s.hand frame).accept r .sWrite (.streamWriteAll frame)) ∨
       (s.phase = .sWrite ∧ s.req = some r ∧
        t = s.await respUnit (fun _ u => u.issue .sFlush .streamFlush)) ∨
       (s.phase = .sFlush ∧ s.req = some r ∧ t = s.await respUnit (fun _ u => streamAfterFlush m u)) ∨
       (s.phase = .sRead ∧ s.req = some r ∧ t = s.await resp (fun v u => u.finish (.ok v))) ∨
       (s.phase ≠ .idle ∧ s.phase ≠ .bXact ∧ s.req ≠ some r ∧ t = s)) := by
  unfold streamOp at h
  split at h
  · cases h
  · refine ⟨by assumption, ?_⟩
    by_cases hr : s.req = some r
    · split at h
      · cases h; exact .inl ⟨by assumption, rfl⟩
      · cases h; exact .inr (.inl ⟨by assumption, hr, by simp [hr]⟩)
      · cases h; exact .inr (.inr (.inl ⟨by assumption, hr, by simp [hr]⟩))
      · cases h; exact .inr (.inr (.inr (.inl ⟨by assumption, hr, by simp [hr]⟩)))
      · cases h
    · split at h <;> rename_i hp
      · cases h; exact .inl ⟨hp, rfl⟩
      · cases h; exact .inr (.inr (.inr (.inr ⟨by simp [hp], by simp [hp], hr, by simp [hr]⟩)))
      · cases h; exact .inr (.inr (.inr (.inr ⟨by simp [hp], by simp [hp], hr, by simp [hr]⟩)))
      · cases h; exact .inr (.inr (.inr (.inr ⟨by simp [hp], by simp [hp], hr, by simp [hr]⟩)))
      · cases h

/-- The operation of a request on BUS is the one transaction of the spec's table. -/
theorem exec_instr_bus {r : Request} (hr : r.wellFormed = true) (s : State) :
    exec (r.instr .bus) s = busOp r (fun t => busCall t s.cfg.opcodes r) (opValue r.op) s := by
  obtain ⟨op, a, d⟩ := r
  cases op <;> simp_all [Request.wellFormed, Request.instr, exec, execBusWrreg, execBusWrraw, execBusRdreg,
    execBusRdsample, busCall, writePhase, opValue, readLength, Config.REG_READ_BYTES, Config.SAMPLE_BYTES]

/-- The operation of a request on STREAM is STREAM_OP of SYNC and the write phase of the spec's table. -/
theorem exec_instr_stream {r : Request} (hr : r.wellFormed = true) (s : State) :
    exec (r.instr .stream) s =
      streamOp r (Config.SYNC :: writePhase s.cfg.opcodes r) (readLength r.op) (opValue r.op) s := by
  obtain ⟨op, a, d⟩ := r
  cases op <;> simp_all [Request.wellFormed, Request.instr, exec, execStreamWrreg, execStreamWrraw, execStreamRdreg,
    execStreamRdsample, writePhase, opValue, readLength, Config.REG_READ_BYTES, Config.SAMPLE_BYTES]

/-- A value is delivered exactly for bytes of the operation's read length. -/
theorem opValue_isSome (op : ReqOp) (bytes : List Byte) :
    (opValue op bytes).isSome = true ↔ bytes.length = readLength op := by
  cases op <;> rcases bytes with _ | ⟨b0, _ | ⟨b1, _ | ⟨b2, _ | ⟨b3, rest⟩⟩⟩⟩ <;>
    simp [opValue, readLength, respUnit, respByte, respSample]

/-- A decoded request has its reserved fields zero. -/
theorem decodeRequest_wellFormed {w : ReqWord} {r : Request} (h : decodeRequest w = .ok r) : r.wellFormed = true := by
  unfold decodeRequest at h
  split at h
  · cases h; rfl
  · split at h
    · split at h
      · cases h; rfl
      · cases h
    · split at h
      · split at h
        · cases h; rfl
        · cases h
      · split at h
        · cases h
        · split at h
          · cases h
          · cases h; rfl

/-- The uppermost of three fields laid side by side. -/
theorem extract_upper {u v w : Nat} (x : BitVec u) (y : BitVec v) (z : BitVec w) :
    (x ++ y ++ z).extractLsb' (v + w) u = x := by
  rw [BitVec.extractLsb'_append_eq_of_le (by omega), Nat.add_sub_cancel]
  exact BitVec.extractLsb'_append_eq_left

/-- The middle one of three fields laid side by side. -/
theorem extract_middle {u v w : Nat} (x : BitVec u) (y : BitVec v) (z : BitVec w) :
    (x ++ y ++ z).extractLsb' w v = y := by
  rw [BitVec.extractLsb'_append_eq_of_le (Nat.le_refl w), Nat.sub_self]
  exact BitVec.extractLsb'_append_eq_right

theorem opField_encodeRequest (r : Request) : opField (encodeRequest r) = r.op.code :=
  extract_upper _ _ _

theorem addrField_encodeRequest (r : Request) : addrField (encodeRequest r) = r.addr :=
  extract_middle _ _ _

theorem dataField_encodeRequest (r : Request) : dataField (encodeRequest r) = r.data :=
  BitVec.extractLsb'_append_eq_right

theorem cmdOpcode_commandByte (o : Opcodes) (k : Kind) (a : RegAddr) :
    cmdOpcode (commandByte o k a) = o.opc k :=
  BitVec.extractLsb'_append_eq_right

theorem cmdAddr_commandByte (o : Opcodes) (k : Kind) (a : RegAddr) : cmdAddr (commandByte o k a) = a :=
  BitVec.extractLsb'_append_eq_left

theorem responseByte0_append (b0 b1 b2 : Byte) : responseByte0 (b0 ++ b1 ++ b2) = b0 := extract_upper _ _ _

theorem responseByte1_append (b0 b1 b2 : Byte) : responseByte1 (b0 ++ b1 ++ b2) = b1 := extract_middle _ _ _

theorem responseByte2_append (b0 b1 b2 : Byte) : responseByte2 (b0 ++ b1 ++ b2) = b2 :=
  BitVec.extractLsb'_append_eq_right

/-- ENCODE of 40_command_encoder.md R70 is the byte laid out by fields of 30_encoding.md R50. -/
theorem encodeCommand_eq_commandByte (o : Opcodes) (k : Kind) (a : RegAddr) :
    encodeCommand o k a = commandByte o k a := by
  refine BitVec.eq_of_getLsbD_eq fun i hi => ?_
  refine Eq.trans ?_ (BitVec.getLsbD_append (x := a) (y := o.opc k) (i := i)).symm
  simp only [encodeCommand, BitVec.getLsbD_or, BitVec.getLsbD_setWidth, BitVec.getLsbD_shiftLeft]
  by_cases h : i < 2
  · simp [h, hi]
  · simp [h, hi, BitVec.getLsbD_of_ge (o.opc k) i (by omega), show i - 2 < 8 by omega]

@[simp] theorem track_nil (c : Params) : track c [] = some .ready := rfl

/-- The checker takes a trace event by event. -/
theorem track_append_singleton (c : Params) (es : List Event) (e : Event) :
    track c (es ++ [e]) = (track c es).bind (fun k => k.next c e) := by
  simp [track, List.foldl_append]

/-- Two events at once, a return and the next call. -/
theorem track_append_pair (c : Params) (es : List Event) (e f : Event) :
    track c (es ++ [e, f]) = ((track c es).bind (fun k => k.next c e)).bind (fun k => k.next c f) := by
  simp [track, List.foldl_append]

/-- What a value of an operation says of the bytes it was read from. -/
theorem length_of_opValue {op : ReqOp} {bytes : List Byte} {v : Value} (h : opValue op bytes = some v) :
    bytes.length = readLength op := by
  rw [← opValue_isSome, h, Option.isSome_some]

theorem respUnit_eq_some {bytes : List Byte} {v : Value} (h : respUnit bytes = some v) : bytes = [] ∧ v = .unit := by
  cases bytes <;> simp_all [respUnit]

end Sys2Proof.Machine

namespace Sys2Proof.Config

/-- The build's opcode parameters differ, whatever they are (30_encoding.md R51). -/
theorem opcodes_lawful : opcodes.lawful := by
  refine ⟨?_, ?_, ?_⟩ <;> exact fun h => absurd (opcodeOrder.injective h) (by decide)

end Sys2Proof.Config
end

