-- ==== Sys2Proof/Laws/PerInstr.lean ====
section
/-! SUPPORT. Facts about every row of the opcode table as syntax, one lemma per constructor of Instr. -/

namespace Sys2Proof.Laws.EncodedWord

/-- The encoding has the row's pattern: its bits under the row's mask are the row's match
(spec/opcode_table.source.json; the command rows' match is the parameter). -/
def rowMatches (c : Params) : Instr → Item → Prop
  | .cmdWreg _, .command b => b &&& 0x03#8 = c.opcodes.wreg.setWidth 8
  | .cmdRreg _, .command b => b &&& 0x03#8 = c.opcodes.rreg.setWidth 8
  | .cmdRdata, .command b => b &&& 0xFF#8 = c.opcodes.rdata.setWidth 8
  | .busWrreg _ _, .request w => w &&& 0xC000#16 = 0x0000#16
  | .busWrraw _, .request w => w &&& 0xFF00#16 = 0x4000#16
  | .busRdreg _, .request w => w &&& 0xC0FF#16 = 0x8000#16
  | .busRdsample, .request w => w &&& 0xFFFF#16 = 0xC000#16
  | .streamWrreg _ _, .request w => w &&& 0xC000#16 = 0x0000#16
  | .streamWrraw _, .request w => w &&& 0xFF00#16 = 0x4000#16
  | .streamRdreg _, .request w => w &&& 0xC0FF#16 = 0x8000#16
  | .streamRdsample, .request w => w &&& 0xFFFF#16 = 0xC000#16
  | .sampleResponse _ _ _, .response r => r &&& 0x000000#24 = 0x000000#24
  | .sync, .sync b => b &&& 0xFF#8 = 0x55#8
  | _, _ => False

/-- The encoding of the instruction, for every configuration, has its row's pattern. -/
def Statement (i : Instr) : Prop := ∀ c : Params, rowMatches c i (encode c i)

theorem command_low (a : RegAddr) : ∀ k : Opcode, (a ++ k : BitVec (6 + 2)) &&& 0x03#8 = k.setWidth 8 := by
  revert a; decide

theorem wrreg_high (a : RegAddr) (v : Byte) : (0b00#2 ++ a ++ v : BitVec (2 + 6 + 8)) &&& 0xC000#16 = 0x0000#16 := by
  apply BitVec.eq_of_toNat_eq
  rw [BitVec.toNat_and, BitVec.toNat_append]
  simp only [BitVec.toNat_append, BitVec.toNat_ofNat]
  rw [show (0xC000 % 2 ^ 16 : Nat) = 3 <<< 14 by decide, Nat.zero_mod, Nat.zero_shiftLeft, Nat.zero_or]
  refine Nat.eq_of_testBit_eq fun i => ?_
  have ha := a.isLt
  have hv := v.isLt
  rw [Nat.testBit_and, Nat.testBit_or, Nat.testBit_shiftLeft, Nat.testBit_shiftLeft]
  by_cases h : 14 ≤ i
  · have h1 : a.toNat.testBit (i - 8) = false :=
      Nat.testBit_lt_two_pow (lt_of_lt_of_le ha (Nat.pow_le_pow_right (by decide) (by omega)))
    have h2 : v.toNat.testBit i = false :=
      Nat.testBit_lt_two_pow (lt_of_lt_of_le hv (Nat.pow_le_pow_right (by decide) (by omega)))
    simp [h1, h2]
  · simp [h]

theorem wrraw_high (p : Byte) : (0b01#2 ++ 0#6 ++ p : BitVec (2 + 6 + 8)) &&& 0xFF00#16 = 0x4000#16 := by
  revert p; decide

theorem rdreg_fixed (a : RegAddr) : (0b10#2 ++ a ++ 0#8 : BitVec (2 + 6 + 8)) &&& 0xC0FF#16 = 0x8000#16 := by
  revert a; decide

theorem cmdWreg (a : RegAddr) : Statement (.cmdWreg a) := fun _ => command_low a _
theorem cmdRreg (a : RegAddr) : Statement (.cmdRreg a) := fun _ => command_low a _
theorem cmdRdata : Statement .cmdRdata := fun c => by
  have h : ∀ k : Opcode, (0#6 ++ k : BitVec (6 + 2)) &&& 0xFF#8 = k.setWidth 8 := by decide
  exact h c.opcodes.rdata
theorem busWrreg (a : RegAddr) (v : Byte) : Statement (.busWrreg a v) := fun _ => wrreg_high a v
theorem busWrraw (p : Byte) : Statement (.busWrraw p) := fun _ => wrraw_high p
theorem busRdreg (a : RegAddr) : Statement (.busRdreg a) := fun _ => rdreg_fixed a
theorem busRdsample : Statement .busRdsample := fun _ => by
  change encodeRequest _ &&& _ = _
  decide
theorem streamWrreg (a : RegAddr) (v : Byte) : Statement (.streamWrreg a v) := fun _ => wrreg_high a v
theorem streamWrraw (p : Byte) : Statement (.streamWrraw p) := fun _ => wrraw_high p
theorem streamRdreg (a : RegAddr) : Statement (.streamRdreg a) := fun _ => rdreg_fixed a
theorem streamRdsample : Statement .streamRdsample := fun _ => by
  change encodeRequest _ &&& _ = _
  decide
theorem sampleResponse (b0 b1 b2 : Byte) : Statement (.sampleResponse b0 b1 b2) := fun _ => by
  change _ &&& 0#24 = 0#24
  exact BitVec.and_zero
theorem sync : Statement .sync := fun _ => by
  change (0b01010101#8 : Byte) &&& _ = _
  decide

end Sys2Proof.Laws.EncodedWord
end

