-- ==== Sys2Proof/Laws/Step.lean ====
section
/-! SUPPORT. What one step can do, said once: the shapes of a state of the invariant, the step in each phase, and the step in
IDLE. -/

namespace Sys2Proof.Machine

theorem fetch_of_idle {s : State} (h : s.phase = .idle) : fetch s = fetchPresented s := by
  simp [fetch, h]

theorem fetch_of_busy {s : State} (h : s.phase ≠ .idle) : fetch s = fetchRunning s := by
  unfold fetch
  cases hp : s.phase <;> simp_all

/-- The shapes of a state of the invariant: IDLE without a request, the bus transaction pending on a BUS instance, or one of
the three stream calls pending on a STREAM instance. -/
theorem sequencerInv_cases {s : State} (h : s.sequencerInv = true) :
    (s.phase = .idle ∧ s.req = none) ∨
    ∃ r, s.req = some r ∧ r.wellFormed = true ∧
      ((s.phase = .bXact ∧ ∃ t, s.cfg.link = .bus t) ∨
       (s.cfg.link = .stream ∧
        (s.phase = .sWrite ∨ s.phase = .sFlush ∨
         (s.phase = .sRead ∧ readLength r.op ≠ 0 ∧ s.held = [])))) := by
  unfold State.sequencerInv at h
  cases hr : s.req with
  | none => simp_all
  | some r =>
    refine .inr ⟨r, rfl, ?_⟩
    cases hp : s.phase <;> cases hl : s.cfg.link <;> simp_all [Phase.fits, Params.transport]

theorem wellFormed_of_sequencerInv {s : State} (h : s.sequencerInv = true) : s.cfg.wellFormed = true := by
  unfold State.sequencerInv at h
  simp only [Bool.and_eq_true] at h
  exact h.1

section
variable {s : State} {r : Request}

theorem step_bXact {t : BusAddr} (hp : s.phase = .bXact) (hr : s.req = some r) (hl : s.cfg.link = .bus t)
    (hw : r.wellFormed = true) :
    step s = .next (s.await (opValue r.op) (fun v u => u.finish (.ok v))) := by
  have ht : s.cfg.transport = .bus := by simp [Params.transport, hl]
  simp [step, fetch_of_busy (s := s) (by simp [hp]), fetchRunning, hr, ht, exec_instr_bus hw, busOp, hl, hp]

theorem step_sWrite (hp : s.phase = .sWrite) (hr : s.req = some r) (hl : s.cfg.link = .stream)
    (hw : r.wellFormed = true) :
    step s = .next (s.await respUnit (fun _ u => u.issue .sFlush .streamFlush)) := by
  have ht : s.cfg.transport = .stream := by simp [Params.transport, hl]
  simp [step, fetch_of_busy (s := s) (by simp [hp]), fetchRunning, hr, ht, exec_instr_stream hw, streamOp, hl, hp]

theorem step_sFlush (hp : s.phase = .sFlush) (hr : s.req = some r) (hl : s.cfg.link = .stream)
    (hw : r.wellFormed = true) :
    step s = .next (s.await respUnit (fun _ u => streamAfterFlush (readLength r.op) u)) := by
  have ht : s.cfg.transport = .stream := by simp [Params.transport, hl]
  simp [step, fetch_of_busy (s := s) (by simp [hp]), fetchRunning, hr, ht, exec_instr_stream hw, streamOp, hl, hp]

theorem step_sRead (hp : s.phase = .sRead) (hr : s.req = some r) (hl : s.cfg.link = .stream)
    (hw : r.wellFormed = true) :
    step s = .next (s.await (opValue r.op) (fun v u => u.finish (.ok v))) := by
  have ht : s.cfg.transport = .stream := by simp [Params.transport, hl]
  simp [step, fetch_of_busy (s := s) (by simp [hp]), fetchRunning, hr, ht, exec_instr_stream hw, streamOp, hl, hp]

end

/-- What a step in IDLE does when it answers a next state: nothing is presented or it is turned away; a combinational row
drives its output; a request is accepted, on BUS or on STREAM. -/
theorem step_idle_cases {s s' : State} (h : s.phase = .idle) (hs : step s = .next s') :
    (∃ rest, s' = { s with host := rest }) ∨
    (∃ rest o, s' = { s with host := rest, comb := some o }) ∨
    (∃ rest r t, r.wellFormed = true ∧ s.cfg.link = .bus t ∧
      s' = State.accept { s with host := rest } r .bXact (busCall t s.cfg.opcodes r)) ∨
    (∃ rest r, r.wellFormed = true ∧ s.cfg.link = .stream ∧
      s' = (State.hand { s with host := rest } (Config.SYNC :: writePhase s.cfg.opcodes r)).accept r .sWrite
        (.streamWriteAll (Config.SYNC :: writePhase s.cfg.opcodes r))) := by
  unfold step at hs
  rw [fetch_of_idle h] at hs
  unfold fetchPresented at hs
  cases hh : s.host with
  | nil =>
    simp only [hh] at hs
    cases hs
    exact .inl ⟨s.host, rfl⟩
  | cons it rest =>
    rw [hh] at hs
    cases hd : decode s.cfg it with
    | error e =>
      simp only [hd] at hs
      cases hs
      exact .inl ⟨rest, rfl⟩
    | ok i =>
      simp only [hd] at hs
      cases it with
      | request w =>
        simp only [decode] at hd
        cases hr : decodeRequest w with
        | error e => rw [hr] at hd; cases hd
        | ok r =>
          rw [hr] at hd
          cases hd
          have hw := decodeRequest_wellFormed hr
          cases hl : s.cfg.link with
          | bus t =>
            rw [show s.cfg.transport = .bus by simp [Params.transport, hl], exec_instr_bus hw] at hs
            simp only [busOp, hl, h] at hs
            cases hs
            exact .inr (.inr (.inl ⟨rest, r, t, hw, rfl, rfl⟩))
          | stream =>
            rw [show s.cfg.transport = .stream by simp [Params.transport, hl], exec_instr_stream hw] at hs
            simp only [streamOp, hl, h] at hs
            cases hs
            exact .inr (.inr (.inr ⟨rest, r, hw, rfl, rfl⟩))
      | command b =>
        simp only [decode] at hd
        cases hr : readCommand s.cfg.opcodes b with
        | error e => rw [hr] at hd; cases hd
        | ok ka =>
          obtain ⟨k, a⟩ := ka
          rw [hr] at hd
          cases hd
          cases k <;> cases hs <;> exact .inr (.inl ⟨rest, _, rfl⟩)
      | sync b =>
        simp only [decode] at hd
        split at hd <;> cases hd
        cases hs
        exact .inr (.inl ⟨rest, _, rfl⟩)
      | response r =>
        cases hd
        cases hs
        exact .inr (.inl ⟨rest, _, rfl⟩)

/-- What a step does while an operation runs: nothing, as long as the pending call is not served; CommErr on Err; and on Ok
the row of the phase (10_state.md R18). -/
theorem step_busy_cases {s s' : State} (hi : s.sequencerInv = true) (hp : s.phase ≠ .idle) (hs : step s = .next s') :
    ∃ r, s.req = some r ∧ r.wellFormed = true ∧
      ((s.served = false ∧ s' = s) ∨
       (s.served = true ∧ ∃ e, s.answer = .returns (.err e) ∧ s' = (s.returned (.err e)).raiseCommErr e) ∨
       (s.served = true ∧ ∃ b, s.answer = .returns (.ok b) ∧
         ((s.phase = .bXact ∧ ∃ v, opValue r.op b = some v ∧ s' = (s.returned (.ok b)).finish (.ok v)) ∨
          (s.phase = .sWrite ∧ b = [] ∧ s.cfg.link = .stream ∧
            s' = (s.returned (.ok b)).issue .sFlush .streamFlush) ∨
          (s.phase = .sFlush ∧ b = [] ∧ s.cfg.link = .stream ∧
            s' = streamAfterFlush (readLength r.op) (s.returned (.ok b))) ∨
          (s.phase = .sRead ∧ s.held = [] ∧
            ∃ v, opValue r.op b = some v ∧ s' = (s.returned (.ok b)).finish (.ok v))))) := by
  have bus_delivers : ∀ t o (r : Request), (busCall t o r).delivers = readLength r.op := by
    intro t o r
    cases ho : r.op <;> simp [busCall, ho, Call.delivers, readLength]
  have unread : ∀ op b, opValue op b = none → b.length ≠ readLength op := by
    intro op b h hl
    have := (opValue_isSome op b).mpr hl
    simp [h] at this
  rcases sequencerInv_cases hi with ⟨h, -⟩ | ⟨r, hr, hw, ⟨hp, t, hl⟩ | ⟨hl, hp | hp | ⟨hp, hm, hh⟩⟩⟩
  · exact absurd h hp
  · refine ⟨r, hr, hw, ?_⟩
    have hk : s.pending = some (busCall t s.cfg.opcodes r) := by
      simp [State.pending, hr, hp, pendingCall, Params.target, hl]
    rw [step_bXact hp hr hl hw] at hs
    cases hs
    rcases State.await_cases s (opValue r.op) (fun v u => u.finish (.ok v)) with
      ⟨h, h'⟩ | ⟨e, he, h⟩ | ⟨b, v, hb, hv, h⟩ <;> rw [h]
    · refine .inl ⟨?_, rfl⟩
      rcases h' with h' | ⟨b, hb, hn⟩
      · simp [State.served, hk, h']
      · simp [State.served, hk, hb, bus_delivers, unread _ _ hn]
    · exact .inr (.inl ⟨by simp [State.served, hk, he], e, he, rfl⟩)
    · exact .inr (.inr ⟨by simp [State.served, hk, hb, bus_delivers, length_of_opValue hv], b, hb,
        .inl ⟨hp, v, hv, rfl⟩⟩)
  · refine ⟨r, hr, hw, ?_⟩
    have hk : s.pending = some (.streamWriteAll (Config.SYNC :: writePhase s.cfg.opcodes r)) := by
      simp [State.pending, hr, hp, pendingCall]
    rw [step_sWrite hp hr hl hw] at hs
    cases hs
    rcases State.await_cases s respUnit (fun _ u => u.issue .sFlush .streamFlush) with
      ⟨h, h'⟩ | ⟨e, he, h⟩ | ⟨b, v, hb, hv, h⟩ <;> rw [h]
    · refine .inl ⟨?_, rfl⟩
      rcases h' with h' | ⟨b, hb, hn⟩
      · simp [State.served, hk, h']
      · cases b <;> simp_all [respUnit, State.served, Call.delivers]
    · exact .inr (.inl ⟨by simp [State.served, hk, he], e, he, rfl⟩)
    · obtain ⟨rfl, rfl⟩ := respUnit_eq_some hv
      exact .inr (.inr ⟨by simp [State.served, hk, hb, Call.delivers], [], hb, .inr (.inl ⟨hp, rfl, hl, rfl⟩)⟩)
  · refine ⟨r, hr, hw, ?_⟩
    have hk : s.pending = some .streamFlush := by simp [State.pending, hr, hp, pendingCall]
    rw [step_sFlush hp hr hl hw] at hs
    cases hs
    rcases State.await_cases s respUnit (fun _ u => streamAfterFlush (readLength r.op) u) with
      ⟨h, h'⟩ | ⟨e, he, h⟩ | ⟨b, v, hb, hv, h⟩ <;> rw [h]
    · refine .inl ⟨?_, rfl⟩
      rcases h' with h' | ⟨b, hb, hn⟩
      · simp [State.served, hk, h']
      · cases b <;> simp_all [respUnit, State.served, Call.delivers]
    · exact .inr (.inl ⟨by simp [State.served, hk, he], e, he, rfl⟩)
    · obtain ⟨rfl, rfl⟩ := respUnit_eq_some hv
      exact .inr (.inr ⟨by simp [State.served, hk, hb, Call.delivers], [], hb,
        .inr (.inr (.inl ⟨hp, rfl, hl, rfl⟩))⟩)
  · refine ⟨r, hr, hw, ?_⟩
    have hk : s.pending = some (.streamReadExact (readLength r.op)) := by simp [State.pending, hr, hp, pendingCall]
    rw [step_sRead hp hr hl hw] at hs
    cases hs
    rcases State.await_cases s (opValue r.op) (fun v u => u.finish (.ok v)) with
      ⟨h, h'⟩ | ⟨e, he, h⟩ | ⟨b, v, hb, hv, h⟩ <;> rw [h]
    · refine .inl ⟨?_, rfl⟩
      rcases h' with h' | ⟨b, hb, hn⟩
      · simp [State.served, hk, h']
      · simp [State.served, hk, hb, Call.delivers, unread _ _ hn]
    · exact .inr (.inl ⟨by simp [State.served, hk, he], e, he, rfl⟩)
    · exact .inr (.inr ⟨by simp [State.served, hk, hb, Call.delivers, length_of_opValue hv], b, hb,
        .inr (.inr (.inr ⟨hp, hh, v, hv, rfl⟩))⟩)

/-! ## Several steps -/

theorem run_zero (s : State) : Host.Core.run core 0 s = .next s := rfl

/-- A run goes on from what its first step answers. -/
theorem run_succ_of_next {n : Nat} {s t : State} (h : step s = .next t) :
    Host.Core.run core (n + 1) s = Host.Core.run core n t := by
  have h' : core.step s = .next t := h
  have e : Host.Core.run core (n + 1) s = _ := Host.Core.run.eq_2 core s n
  rw [e, h']

end Sys2Proof.Machine
end

