-- ==== Sys2Proof/Tests/Slice0.lean ====
section
/-! SUPPORT. The model's own tests and witnesses. Expected values are those of spec/95_test_vectors.md and the tables of
30_encoding.md, at the opcode values W = 1, R = 2, D = 3 (a lawful choice made for the tests alone). -/

namespace Sys2Proof.Tests

open Sys2Proof Sys2Proof.Machine

/-! ## Small states -/

def opcodes : Opcodes := { wreg := 1#2, rreg := 2#2, rdata := 3#2 }
def target : BusAddr := { width := 7, bits := 0x40#7 }
def handle : Handle := { id := 9 }
def bus : Params := { link := .bus target, handle := handle, opcodes := opcodes }
def stream : Params := { link := .stream, handle := handle, opcodes := opcodes }

/-- An instance in IDLE with what the host presents and what the environment answers. -/
def idle (c : Params) (host : List Item) (env : List Answer) : State :=
  { cfg := c, phase := .idle, req := none, host := host, env := env, draws := 0, held := [], trace := [], results := [],
    comb := none }

def event (k : Call) : Event := .call handle k

/-- The trace up to the pending call of a phase. -/
def traceOf (c : Params) (p : Phase) (r : Request) : List Event :=
  match p with
  | .idle => []
  | .bXact => [event (busCall target c.opcodes r)]
  | .sWrite => [event (.streamWriteAll (Config.SYNC :: writePhase c.opcodes r))]
  | .sFlush => [event (.streamWriteAll (Config.SYNC :: writePhase c.opcodes r)), .ret (.ok []), event .streamFlush]
  | .sRead =>
    [event (.streamWriteAll (Config.SYNC :: writePhase c.opcodes r)), .ret (.ok []), event .streamFlush, .ret (.ok []),
      event (.streamReadExact (readLength r.op))]

/-- An instance whose operation with request `r` is in phase `p`. -/
def running (c : Params) (p : Phase) (r : Request) (env : List Answer) : State :=
  { cfg := c, phase := p, req := some r, host := [], env := env, draws := 0, held := [], trace := traceOf c p r,
    results := [], comb := none }

def wrreg : Request := { op := .wrreg, addr := 5#6, data := 0x42#8 }
def wrraw : Request := { op := .wrraw, addr := 0#6, data := 0x06#8 }
def rdreg : Request := { op := .rdreg, addr := 7#6, data := 0#8 }
def rdsample : Request := { op := .rdsample, addr := 0#6, data := 0#8 }

def ok (bytes : List Byte) : Answer := .returns (.ok bytes)
def err (n : Nat) : Answer := .returns (.err { code := n })

def nextOf : Outcome → Option State
  | .next s => some s
  | .fault _ => none
  | .refused _ => none

/-! ## The checks refuse ill-formed terms -/

theorem smoke_opcodes_not_distinct :
    ({ bus with opcodes := { wreg := 1#2, rreg := 1#2, rdata := 3#2 } } : Params).wellFormed = false := by decide
theorem smoke_opcodes_distinct : bus.wellFormed = true ∧ stream.wellFormed = true := by decide
theorem smoke_wrraw_addr : ({ op := .wrraw, addr := 1#6, data := 6#8 } : Request).wellFormed = false := by decide
theorem smoke_rdreg_data : ({ op := .rdreg, addr := 7#6, data := 1#8 } : Request).wellFormed = false := by decide
theorem smoke_rdsample_addr : ({ op := .rdsample, addr := 1#6, data := 0#8 } : Request).wellFormed = false := by decide
theorem smoke_rdsample_data : ({ op := .rdsample, addr := 0#6, data := 0xFF#8 } : Request).wellFormed = false := by decide
theorem smoke_bus_on_stream :
    Instr.wellFormed stream (.busWrreg 5#6 0x42#8) = false ∧ Instr.wellFormed stream (.busWrraw 6#8) = false ∧
    Instr.wellFormed stream (.busRdreg 7#6) = false ∧ Instr.wellFormed stream .busRdsample = false := by decide
theorem smoke_stream_on_bus :
    Instr.wellFormed bus (.streamWrreg 5#6 0x42#8) = false ∧ Instr.wellFormed bus (.streamWrraw 6#8) = false ∧
    Instr.wellFormed bus (.streamRdreg 7#6) = false ∧ Instr.wellFormed bus .streamRdsample = false := by decide
theorem smoke_asm_address_64 : Asm.wellFormed (.wrreg 64 0) = false ∧ Asm.wellFormed (.rdreg 64) = false := by decide
theorem smoke_asm_byte_256 : Asm.wellFormed (.wrreg 0 256) = false ∧ Asm.wellFormed (.wrraw 256) = false := by decide

/-! ## Decoding: words written out from the spec's encodings -/

-- 95_test_vectors.md table 2.1: row 5, opc = 1; row 7, opc = 2; row 0, opc = 3.
theorem test_decode_cmdWreg : decode bus (.command 0b00010101#8) = .ok (.cmdWreg 5#6) := by decide
theorem test_decode_cmdRreg : decode bus (.command 0b00011110#8) = .ok (.cmdRreg 7#6) := by decide
theorem test_decode_cmdRdata : decode bus (.command 0b00000011#8) = .ok .cmdRdata := by decide
-- V-Q1, V-Q4, V-Q5, V-Q7.
theorem test_decode_busWrreg : decode bus (.request 0x0542#16) = .ok (.busWrreg 5#6 0x42#8) := by decide
theorem test_decode_busWrraw : decode bus (.request 0x4006#16) = .ok (.busWrraw 0x06#8) := by decide
theorem test_decode_busRdreg : decode bus (.request 0x8700#16) = .ok (.busRdreg 7#6) := by decide
theorem test_decode_busRdsample : decode bus (.request 0xC000#16) = .ok .busRdsample := by decide
-- V-Q2, V-Q4, V-Q6, V-Q7.
theorem test_decode_streamWrreg : decode stream (.request 0x3FFF#16) = .ok (.streamWrreg 63#6 0xFF#8) := by decide
theorem test_decode_streamWrraw : decode stream (.request 0x4006#16) = .ok (.streamWrraw 0x06#8) := by decide
theorem test_decode_streamRdreg : decode stream (.request 0xBF00#16) = .ok (.streamRdreg 63#6) := by decide
theorem test_decode_streamRdsample : decode stream (.request 0xC000#16) = .ok .streamRdsample := by decide
theorem test_decode_sampleResponse :
    decode bus (.response 0x010203#24) = .ok (.sampleResponse 0x01#8 0x02#8 0x03#8) := by decide
theorem test_decode_sync : decode stream (.sync 0b01010101#8) = .ok .sync := by decide
-- V-Q8 to V-Q11; 30_encoding.md R60 (0 is no kind's opcode here), R65, R53.
theorem test_refuse_reserved :
    decode bus (.request 0x4106#16) = .error .reservedAddr ∧ decode bus (.request 0x8701#16) = .error .reservedData ∧
    decode bus (.request 0xC100#16) = .error .reservedAddr ∧
    decode bus (.request 0xC0FF#16) = .error .reservedData := by decide
theorem test_refuse_bytes :
    decode bus (.command 0x14#8) = .error .noSuchKind ∧ decode bus (.command 0x07#8) = .error .readDataAddr ∧
    decode stream (.sync 0x54#8) = .error .notSync := by decide
-- The word 0x55 of the table is SYNC; a request word reads as the reset instance's operation (log 12, log 13).
theorem test_decodeTableWord :
    decodeTableWord 8 0x55 = some .sync ∧ decodeTableWord 16 0x0542 = some (.streamWrreg 5#6 0x42#8) ∧
    decodeTableWord 16 0x4106 = none ∧ decodeTableWord 24 0x010203 = some (.sampleResponse 1#8 2#8 3#8) ∧
    decodeTableWord 16 0x10000 = none ∧ decodeTableWord 7 0 = none := by decide
theorem test_withFetchWord_runs :
    (nextOf (step (State.reset.withFetchWord 16 0x4006))).map (fun s => (s.phase, s.req)) =
      some (.sWrite, some wrraw) := by decide
-- V-Q1, V-E9.
theorem test_assemble :
    assemble (.wrreg 5 0x42) = some 0x0542#16 ∧ assemble (.wrraw 0x06) = some 0x4006#16 ∧
    assemble (.rdreg 7) = some 0x8700#16 ∧ assemble .rdsample = some 0xC000#16 ∧ assemble (.rdreg 64) = none := by decide

/-! ## Instructions -/

-- V-E2, V-E3, V-E4.
theorem test_cmdWreg :
    (nextOf (exec (.cmdWreg 63#6) (idle bus [] []))).map (fun s => s.comb) = some (some (.command 0xFD#8)) := by decide
theorem test_cmdRreg :
    (nextOf (exec (.cmdRreg 63#6) (idle bus [] []))).map (fun s => s.comb) = some (some (.command 0xFE#8)) := by decide
theorem test_cmdRdata :
    (nextOf (exec .cmdRdata (idle bus [] []))).map (fun s => s.comb) = some (some (.command 0x03#8)) := by decide
-- V-B1, V-B2.
theorem test_busWrreg_issues :
    (nextOf (exec (.busWrreg 5#6 0x42#8) (idle bus [] []))).map (fun s => (s.phase, s.trace)) =
      some (.bXact, [event (.busWrite target [0x15#8, 0x42#8])]) := by decide
theorem test_busWrreg_err :
    (nextOf (exec (.busWrreg 5#6 0x42#8) (running bus .bXact wrreg [err 1]))).map (fun s => (s.phase, s.results)) =
      some (.idle, [.err (.commErr { code := 1 })]) := by decide
-- V-B3.
theorem test_busWrraw_issues :
    (nextOf (exec (.busWrraw 0x55#8) (idle bus [] []))).map (fun s => s.trace) =
      some [event (.busWrite target [0x55#8])] := by decide
theorem test_busWrraw_ok :
    (nextOf (exec (.busWrraw 0x06#8) (running bus .bXact wrraw [ok []]))).map (fun s => (s.phase, s.results)) =
      some (.idle, [.ok .unit]) := by decide
-- V-B5.
theorem test_busRdreg_issues :
    (nextOf (exec (.busRdreg 7#6) (idle bus [] []))).map (fun s => s.trace) =
      some [event (.busWriteRead target [0x1E#8] 1)] := by decide
theorem test_busRdreg_ok :
    (nextOf (exec (.busRdreg 7#6) (running bus .bXact rdreg [ok [0x3C#8]]))).map (fun s => s.results) =
      some [.ok (.byte 0x3C#8)] := by decide
-- V-B7.
theorem test_busRdsample_issues :
    (nextOf (exec .busRdsample (idle bus [] []))).map (fun s => s.trace) =
      some [event (.busWriteRead target [0x03#8] 3)] := by decide
theorem test_busRdsample_ok :
    (nextOf (exec .busRdsample (running bus .bXact rdsample [ok [0x80#8, 0x00#8, 0x00#8]]))).map (fun s => s.results) =
      some [.ok (.sample 0x00800000#32)] := by decide
-- V-S1, V-S4.
theorem test_streamWrreg_writes :
    (nextOf (exec (.streamWrreg 5#6 0x42#8) (idle stream [] []))).map (fun s => (s.phase, s.trace)) =
      some (.sWrite, [event (.streamWriteAll [0x55#8, 0x15#8, 0x42#8])]) := by decide
theorem test_streamWrreg_flush_err :
    (nextOf (exec (.streamWrreg 5#6 0x42#8) (running stream .sFlush wrreg [err 2]))).map
      (fun s => (s.phase, s.results)) = some (.idle, [.err (.commErr { code := 2 })]) := by decide
-- V-S5, V-S15.
theorem test_streamWrraw_writes :
    (nextOf (exec (.streamWrraw 0x55#8) (idle stream [] []))).map (fun s => s.trace) =
      some [event (.streamWriteAll [0x55#8, 0x55#8])] := by decide
theorem test_streamWrraw_write_err :
    (nextOf (exec (.streamWrraw 0x06#8) (running stream .sWrite wrraw [err 3]))).map (fun s => (s.phase, s.trace)) =
      some (.idle, [event (.streamWriteAll [0x55#8, 0x06#8]), .ret (.err { code := 3 })]) := by decide
-- V-S7.
theorem test_streamRdreg_reads :
    (nextOf (exec (.streamRdreg 7#6) (running stream .sFlush rdreg [ok []]))).map
      (fun s => (s.phase, s.trace.getLast?)) = some (.sRead, some (event (.streamReadExact 1))) := by decide
theorem test_streamRdreg_ok :
    (nextOf (exec (.streamRdreg 7#6) (running stream .sRead rdreg [ok [0xA5#8]]))).map (fun s => s.results) =
      some [.ok (.byte 0xA5#8)] := by decide
-- V-S11, V-S12.
theorem test_streamRdsample_ok :
    (nextOf (exec .streamRdsample (running stream .sRead rdsample [ok [0x01#8, 0x02#8, 0x03#8]]))).map
      (fun s => s.results) = some [.ok (.sample 0x00010203#32)] := by decide
theorem test_streamRdsample_read_err :
    (nextOf (exec .streamRdsample (running stream .sRead rdsample [err 8]))).map (fun s => (s.phase, s.results)) =
      some (.idle, [.err (.commErr { code := 8 })]) := by decide
-- V-D13; V-D5.
theorem test_sampleResponse :
    (nextOf (exec (.sampleResponse 0xAA#8 0x00#8 0x55#8) (idle bus [] []))).map (fun s => s.comb) =
      some (some (.sample 0x00AA0055#32)) := by decide
theorem test_sampleResponse_unsigned :
    (nextOf (exec (.sampleResponse 0x80#8 0x00#8 0x00#8) (idle bus [] []))).map (fun s => s.comb) =
      some (some (.sample 0x00800000#32)) := by decide
theorem test_sync :
    (nextOf (exec .sync (idle stream [] []))).map (fun s => s.comb) = some (some (.sync 0x55#8)) := by decide
-- 95_test_vectors.md P4: a refused request leaves no trace, and a hang leaves everything as it is.
theorem test_refused_request :
    (nextOf (step (idle stream [.request 0x4106#16, .request 0x8200#16] []))).map
      (fun s => (s.phase, s.trace, s.results, s.host)) = some (.idle, [], [], [.request 0x8200#16]) := by decide
theorem test_hang :
    nextOf (step (running stream .sRead rdreg [.never])) = some (running stream .sRead rdreg [.never]) := by decide
-- 70_reset_and_hazards.md R134: after an Err on STREAM the host owes a clean framing; the next request is taken all the same. When the doubt ends is log 24.
theorem test_framing_in_doubt :
    State.framingInDoubt { idle stream [] [] with results := [.err (.commErr { code := 1 })] } = true ∧
    State.framingInDoubt { idle bus [] [] with results := [.err (.commErr { code := 1 })] } = false ∧
    State.framingInDoubt (idle stream [] []) = false := by decide

/-! ## Witnesses: concrete states that meet the hypotheses of the statements, clause by clause -/

theorem witness_ConstructionLeavesIdleWithoutRequest : bus.link = .bus target ∧ stream.link = .stream := by decide
theorem witness_ConstructionMeetsTheInvariants : bus.wellFormed = true ∧ stream.wellFormed = true := by decide
theorem witness_StepKeepsSequencerInv :
    ∃ s', (running stream .sFlush rdreg [ok []]).sequencerInv = true ∧
      step (running stream .sFlush rdreg [ok []]) = .next s' ∧ s'.phase = .sRead := ⟨_, by decide, rfl, by decide⟩
theorem witness_StepKeepsTransportProtocol :
    ∃ s', (running stream .sFlush rdreg [ok []]).sequencerInv = true ∧
      (running stream .sFlush rdreg [ok []]).protocolInv = true ∧
      step (running stream .sFlush rdreg [ok []]) = .next s' ∧ s'.trace.length = 5 := ⟨_, by decide, by decide, rfl, by decide⟩
theorem witness_StepKeepsTransportProtocol_bus :
    (running bus .bXact rdsample [ok [1#8, 2#8, 3#8]]).sequencerInv = true ∧
    (running bus .bXact rdsample [ok [1#8, 2#8, 3#8]]).protocolInv = true := by decide
theorem witness_StepKeepsConfiguration : ∃ s', step (idle bus [.request 0x0542#16] []) = .next s' := ⟨_, rfl⟩
theorem witness_StepKeepsSamplesUnsigned :
    ∃ s', State.samplesUnsigned { idle bus [] [] with results := [.ok (.sample 0x00FFFFFF#32)] } ∧
      step { idle bus [] [] with results := [.ok (.sample 0x00FFFFFF#32)] } = .next s' := by
  refine ⟨_, ?_, rfl⟩
  intro v hv
  simp only [List.mem_singleton, Result.ok.injEq, Value.sample.injEq] at hv
  subst hv
  decide
theorem witness_StepAlwaysAnswersNext : (running stream .sRead rdsample [.never]).sequencerInv = true := by decide
theorem witness_StepRunsDecodedInstruction :
    (idle stream [.request 0x8700#16, .request 0xC000#16] []).phase = .idle ∧
    decode stream (.request 0x8700#16) = .ok (.streamRdreg 7#6) := by decide
theorem witness_StepRunsTheRunningOperation :
    (running bus .bXact wrreg []).phase ≠ .idle ∧ (running bus .bXact wrreg []).req = some wrreg := by decide
theorem witness_IdleWithoutRequestDoesNothing : (idle bus [] []).phase = .idle ∧ (idle bus [] []).host = [] := by decide
theorem witness_ReservedFieldsAreRefused :
    (idle stream [.request 0xC0FF#16] []).host = [.request 0xC0FF#16] ∧
    decodeRequest 0xC0FF#16 = .error .reservedData := by decide
theorem witness_RequestsAreTakenOnlyInIdle_taken :
    ∃ s', step (idle bus [.request 0x0542#16] []) = .next s' ∧ s'.req ≠ (idle bus [.request 0x0542#16] []).req :=
  ⟨_, rfl, by decide⟩
theorem witness_RequestsAreTakenOnlyInIdle_held :
    ∃ s', { running bus .bXact wrreg [ok []] with host := [.request 0xC000#16] }.phase ≠ .idle ∧
      step { running bus .bXact wrreg [ok []] with host := [.request 0xC000#16] } = .next s' := ⟨_, by decide, rfl⟩
theorem witness_OtherOperationRunningHasNoEffect :
    rdreg.wellFormed = true ∧ (running stream .sWrite wrreg []).req = some wrreg ∧ wrreg ≠ rdreg ∧
    (running stream .sWrite wrreg []).phase ≠ .idle ∧ Phase.sWrite.fits stream.transport = true := by decide
theorem witness_OtherVariantsOperationsAreRefused :
    (idle bus [] []).cfg.link = .bus target ∧ (idle stream [] []).cfg.link = .stream ∧
    decode bus (.request 0xC000#16) = .ok .busRdsample := by decide
theorem witness_BusWriteRegisterRuns :
    (idle bus [] []).phase = .idle ∧ (idle bus [] []).cfg.link = .bus target ∧
    (running bus .bXact wrreg [ok []]).req = some { op := .wrreg, addr := 5#6, data := 0x42#8 } ∧
    (running bus .bXact wrreg [ok []]).answer = .returns (.ok []) ∧
    (running bus .bXact wrreg [err 1]).answer = .returns (.err { code := 1 }) ∧
    (running bus .bXact wrreg [.never]).answer = .never := by decide
theorem witness_BusWriteRawRuns :
    (running bus .bXact wrraw [ok []]).req = some { op := .wrraw, addr := 0#6, data := 0x06#8 } ∧
    (running bus .bXact wrraw [ok []]).phase = .bXact ∧ (running bus .bXact wrraw [ok []]).cfg.link = .bus target ∧
    (running bus .bXact wrraw [ok []]).answer = .returns (.ok []) ∧
    (running bus .bXact wrraw [err 2]).answer = .returns (.err { code := 2 }) := by decide
theorem witness_BusReadRegisterRuns :
    (running bus .bXact rdreg [ok [0x3C#8]]).req = some { op := .rdreg, addr := 7#6, data := 0#8 } ∧
    (running bus .bXact rdreg [ok [0x3C#8]]).phase = .bXact ∧
    (running bus .bXact rdreg [ok [0x3C#8]]).answer = .returns (.ok [0x3C#8]) ∧
    (running bus .bXact rdreg [err 3]).answer = .returns (.err { code := 3 }) := by decide
theorem witness_BusReadSampleRuns :
    (running bus .bXact rdsample [ok [1#8, 2#8, 3#8]]).req = some { op := .rdsample, addr := 0#6, data := 0#8 } ∧
    (running bus .bXact rdsample [ok [1#8, 2#8, 3#8]]).answer = .returns (.ok [1#8, 2#8, 3#8]) ∧
    (running bus .bXact rdsample [err 4]).answer = .returns (.err { code := 4 }) := by decide
theorem witness_StreamWriteRegisterRuns :
    (idle stream [] []).phase = .idle ∧ (idle stream [] []).cfg.link = .stream ∧
    (running stream .sWrite wrreg [ok []]).req = some { op := .wrreg, addr := 5#6, data := 0x42#8 } ∧
    (running stream .sWrite wrreg [ok []]).phase = .sWrite ∧
    (running stream .sWrite wrreg [ok []]).answer = .returns (.ok []) ∧
    (running stream .sFlush wrreg [ok []]).phase = .sFlush ∧
    (running stream .sFlush wrreg [err 2]).answer = .returns (.err { code := 2 }) ∧
    (running stream .sWrite wrreg [.never]).answer = .never := by decide
theorem witness_StreamWriteRawRuns :
    (running stream .sFlush wrraw [ok []]).req = some { op := .wrraw, addr := 0#6, data := 0x06#8 } ∧
    (running stream .sFlush wrraw [ok []]).phase = .sFlush ∧
    (running stream .sFlush wrraw [ok []]).answer = .returns (.ok []) ∧
    (running stream .sWrite wrraw [err 3]).answer = .returns (.err { code := 3 }) := by decide
theorem witness_StreamReadRegisterRuns :
    (running stream .sRead rdreg [ok [0xA5#8]]).req = some { op := .rdreg, addr := 7#6, data := 0#8 } ∧
    (running stream .sRead rdreg [ok [0xA5#8]]).phase = .sRead ∧
    (running stream .sRead rdreg [ok [0xA5#8]]).answer = .returns (.ok [0xA5#8]) ∧
    (running stream .sFlush rdreg [ok []]).answer = .returns (.ok []) ∧
    (running stream .sRead rdreg [err 7]).answer = .returns (.err { code := 7 }) := by decide
theorem witness_StreamReadSampleRuns :
    (running stream .sRead rdsample [ok [1#8, 2#8, 3#8]]).req = some { op := .rdsample, addr := 0#6, data := 0#8 } ∧
    (running stream .sRead rdsample [ok [1#8, 2#8, 3#8]]).phase = .sRead ∧
    (running stream .sRead rdsample [ok [1#8, 2#8, 3#8]]).answer = .returns (.ok [1#8, 2#8, 3#8]) ∧
    (running stream .sFlush rdsample [err 9]).answer = .returns (.err { code := 9 }) := by decide
theorem witness_StreamBufferBoundFollowsTheCalls :
    ∃ s', (idle stream [.request 0x0542#16] []).sequencerInv = true ∧
      step (idle stream [.request 0x0542#16] []) = .next s' ∧ s'.phase = .sWrite ∧ s'.req = some wrreg :=
  ⟨_, by decide, rfl, by decide, by decide⟩
theorem witness_StreamBufferBoundFollowsTheCalls_flush :
    ∃ s', (running stream .sFlush wrreg [ok []]).sequencerInv = true ∧
      step (running stream .sFlush wrreg [ok []]) = .next s' ∧
      (running stream .sFlush wrreg [ok []]).answer = .returns (.ok []) := ⟨_, by decide, rfl, by decide⟩
theorem witness_OperationIsFunctionOfRequestAndReturns :
    (idle stream [.request (encodeRequest rdreg)] [ok [], ok [], ok [0xA5#8], err 1]).phase = .idle ∧
    rdreg.wellFormed = true ∧
    (idle stream [.request (encodeRequest rdreg)] [ok [], ok [], ok [0xA5#8], err 1]).env =
      [Return.ok [], .ok [], .ok [0xA5#8]].map Answer.returns ++ [err 1] ∧
    opRun handle .rdreg (opCalls stream rdreg) [.ok [], .ok [], .ok [0xA5#8]] = some
      ([event (.streamWriteAll [0x55#8, 0x1E#8]), .ret (.ok []), event .streamFlush, .ret (.ok []),
        event (.streamReadExact 1), .ret (.ok [0xA5#8])], .ok (.byte 0xA5#8)) := by decide
theorem witness_OperationIsFunctionOfRequestAndReturns_err :
    opRun handle .rdreg (opCalls stream rdreg) [.ok [], .err { code := 6 }] = some
      ([event (.streamWriteAll [0x55#8, 0x1E#8]), .ret (.ok []), event .streamFlush, .ret (.err { code := 6 })],
        .err (.commErr { code := 6 })) ∧
    opRun handle .wrreg (opCalls bus wrreg) [.ok []] = some
      ([event (.busWrite target [0x15#8, 0x42#8]), .ret (.ok [])], .ok .unit) := by decide
theorem witness_HistoryDoesNotAffectTheStep :
    ∃ s', step (running bus .bXact rdreg [ok [1#8]]) = .next s' ∧ s'.results ≠ [] ∧
      (running bus .bXact rdreg [ok [1#8]]).sequencerInv = true ∧
      (running bus .bXact rdreg [ok [1#8]]).env =
        { running bus .bXact rdreg [ok [1#8]] with held := [0x55#8], results := [.err (.commErr { code := 1 })] }.env :=
  ⟨_, rfl, by decide, by decide, rfl⟩
theorem witness_ErrEndsTheOperationAtOnce :
    (running stream .sRead rdsample [err 8]).sequencerInv = true ∧ (running stream .sRead rdsample [err 8]).phase ≠ .idle ∧
    (running stream .sRead rdsample [err 8]).answer = .returns (.err { code := 8 }) := by decide
theorem witness_CommErrComesFromTheTransport :
    ∃ s', step (running bus .bXact wrreg [err 1]) = .next s' ∧
      s'.results = (running bus .bXact wrreg [err 1]).results ++ [.err (.commErr { code := 1 })] :=
  ⟨_, rfl, by decide⟩
theorem witness_PendingCallThatNeverReturnsHangs :
    (running stream .sRead rdreg [.never]).sequencerInv = true ∧ (running stream .sRead rdreg [.never]).phase ≠ .idle ∧
    (running stream .sRead rdreg [.never]).answer = .never := by decide
theorem witness_OneResultWhenAnOperationEnds :
    ∃ s', (running bus .bXact wrreg [ok []]).sequencerInv = true ∧
      step (running bus .bXact wrreg [ok []]) = .next s' ∧ s'.results = [.ok .unit] := ⟨_, by decide, rfl, by decide⟩
theorem witness_PhaseFollowsTheTable :
    ∃ s', (running stream .sFlush rdreg [ok []]).sequencerInv = true ∧
      (running stream .sFlush rdreg [ok []]).req = some rdreg ∧
      step (running stream .sFlush rdreg [ok []]) = .next s' ∧
      (running stream .sFlush rdreg [ok []]).served = true := ⟨_, by decide, by decide, rfl, by decide⟩
theorem witness_PhaseFollowsTheTable_unserved :
    (running stream .sRead rdsample [ok [1#8, 2#8]]).served = false ∧
    (running stream .sRead rdsample [.never]).served = false := by decide
theorem witness_StreamOkMeansFlushed :
    ∃ s', (running stream .sFlush wrreg [ok []]).sequencerInv = true ∧ stream.transport = .stream ∧
      step (running stream .sFlush wrreg [ok []]) = .next s' ∧ s'.results = [] ++ [.ok .unit] :=
  ⟨_, by decide, by decide, rfl, by decide⟩
theorem witness_AnsweredOperationEndsWithinThreeSteps :
    (running stream .sRead rdreg [ok [0xA5#8]]).sequencerInv = true ∧
    (running stream .sRead rdreg [ok [0xA5#8]]).phase ≠ .idle ∧
    ∀ n t, n < 3 → Host.Core.run core n (running stream .sRead rdreg [ok [0xA5#8]]) = .next t → t.phase ≠ .idle →
      t.served = true := by
  refine ⟨by decide, by decide, ?_⟩
  intro n t hn h hp
  have ended : ∃ u, step (running stream .sRead rdreg [ok [0xA5#8]]) = .next u ∧ u.phase = .idle ∧ step u = .next u :=
    ⟨_, rfl, by decide, rfl⟩
  obtain ⟨u, hu, hup, huu⟩ := ended
  match n, hn with
  | 0, _ => cases h; decide
  | 1, _ => rw [run_succ_of_next hu] at h; cases h; exact absurd hup hp
  | 2, _ => rw [run_succ_of_next hu, run_succ_of_next huu] at h; cases h; exact absurd hup hp
theorem witness_AnswersAreUsedOnce :
    (running bus .bXact wrreg [ok [], err 1]).env = ok [] :: [err 1] ∧ (idle bus [] []).env = [] := by decide
theorem witness_opcodes_lawful :
    opcodes.lawful ∧ opcodes.opc .writeReg = 1#2 ∧ Kind.writeReg ≠ Kind.readReg ∧ (5#6 : RegAddr) ≠ 7#6 := by decide
theorem witness_CommandByteReadsBack :
    readCommand opcodes 0x15#8 = .ok (.writeReg, 5#6) ∧ readCommand opcodes 0x1E#8 = .ok (.readReg, 7#6) ∧
    readCommand opcodes 0x03#8 = .ok (.readData, 0#6) := by decide
theorem witness_SyncValueMayFollowInAFrame :
    opcodes.opc .writeReg = 1#2 ∧ (idle stream [] []).cfg.link = .stream ∧ (idle bus [] []).cfg.link = .bus target := by
  decide
theorem witness_DecodeNeverSignExtends : (0x80#8 : Byte).getLsbD 7 = true := by decide
theorem witness_DecodeIsOrderSensitive : (0x01#8 : Byte) ≠ 0x02#8 := by decide
theorem witness_DecodeOfEncodeIsTheInstruction :
    bus.wellFormed = true ∧ Instr.wellFormed bus (.busWrreg 63#6 0xFF#8) = true ∧
    stream.wellFormed = true ∧ Instr.wellFormed stream (.streamRdreg 63#6) = true ∧
    Instr.wellFormed stream (.cmdWreg 21#6) = true := by decide
theorem witness_EncodeOfDecodeIsTheItem : decode stream (.request 0xBF00#16) = .ok (.streamRdreg 63#6) := by decide
theorem witness_RequestWordsHaveTheirFields :
    (0x3FFF#16 : ReqWord).extractLsb' 14 2 = 0b00#2 ∧
    ((0x40FF#16 : ReqWord).extractLsb' 14 2 = 0b01#2 ∧ (0x40FF#16 : ReqWord).extractLsb' 8 6 = 0#6) ∧
    ((0xBF00#16 : ReqWord).extractLsb' 14 2 = 0b10#2 ∧ (0xBF00#16 : ReqWord).extractLsb' 0 8 = 0#8) ∧
    ((0xC000#16 : ReqWord).extractLsb' 14 2 = 0b11#2 ∧ (0xC000#16 : ReqWord).extractLsb' 8 6 = 0#6 ∧
      (0xC000#16 : ReqWord).extractLsb' 0 8 = 0#8) := by decide
theorem witness_AssemblerRefusesWhatDoesNotFit :
    (64 : Nat) ≤ 64 ∧ (256 : Nat) ≤ 256 ∧ assemble (.wrreg 64 0) = none := by decide

end Sys2Proof.Tests
end

section
/-! SUPPORT. A whole operation (00_scope.md R8): while it runs the phase says which calls are left; each return takes the first
of them off, and `opRun` is what the returns make of the list. -/

namespace Sys2Proof.Machine

/-- The request port reads back the word of a request whose reserved fields are zero. -/
theorem decodeRequest_encodeRequest {r : Request} (hw : r.wellFormed = true) :
    decodeRequest (encodeRequest r) = .ok r := by
  simp only [decodeRequest, opField_encodeRequest, addrField_encodeRequest, dataField_encodeRequest]
  obtain ⟨op, a, d⟩ := r
  cases op <;> simp_all [Request.wellFormed, ReqOp.code]

/-- The return of a call whose answer is written out uses that answer up and counts no draw. -/
theorem State.returned_of_cons {s : State} {a : Answer} {rest : List Answer} (h : s.env = a :: rest) (ret : Return) :
    s.returned ret = { s with env := rest, trace := s.trace ++ [.ret ret] } := by
  simp [State.returned, h]

/-- The calls of the operation `r` from the pending one on, in a phase under configuration `c` (10_state.md R18;
20_memory.md R39). -/
inductive CallsLeft (c : Params) (r : Request) : Phase → List Call → Prop
  | bus {t : BusAddr} (hl : c.link = .bus t) : CallsLeft c r .bXact [busCall t c.opcodes r]
  | read (hl : c.link = .stream) : CallsLeft c r .sRead [.streamReadExact (readLength r.op)]
  | flushOfWrite (hl : c.link = .stream) (hm : readLength r.op = 0) : CallsLeft c r .sFlush [.streamFlush]
  | flushOfRead (hl : c.link = .stream) (hm : readLength r.op ≠ 0) :
    CallsLeft c r .sFlush [.streamFlush, .streamReadExact (readLength r.op)]
  | write (hl : c.link = .stream) {ks : List Call} (hf : CallsLeft c r .sFlush ks) :
    CallsLeft c r .sWrite (.streamWriteAll (Config.SYNC :: writePhase c.opcodes r) :: ks)

/-- `s` when its operation has ended with `res`: `env`, `trace` and `held` as the calls have left them. -/
def State.ended (s : State) (env : List Answer) (trace : List Event) (held : List Byte) (res : Result) : State :=
  { s with phase := .idle, req := none, env := env, trace := trace, held := held, results := s.results ++ [res] }

/-- In IDLE the request presented is accepted: all the calls of its operation are left, and the first is issued. -/
theorem step_accepts_request {s : State} {r : Request} {items : List Item} (hp : s.phase = .idle)
    (hw : r.wellFormed = true) (hh : s.host = .request (encodeRequest r) :: items) :
    ∃ p k ks held, opCalls s.cfg r = k :: ks ∧ CallsLeft s.cfg r p (k :: ks) ∧
      step s = .next { s with
        phase := p, req := some r, host := items, held := held, trace := s.trace ++ [.call s.cfg.handle k] } := by
  have hd : decode s.cfg (.request (encodeRequest r)) = .ok (r.instr s.cfg.transport) := by
    simp [decode, decodeRequest_encodeRequest hw, Except.map]
  have hs : step s = exec (r.instr s.cfg.transport) { s with host := items } := by
    simp [step, fetch_of_idle hp, fetchPresented, hh, hd]
  cases hl : s.cfg.link with
  | bus t =>
    rw [hs, show s.cfg.transport = .bus by simp [Params.transport, hl], exec_instr_bus hw]
    exact ⟨.bXact, _, [], s.held, by simp [opCalls, hl], .bus hl, by simp [busOp, hl, hp, State.accept, State.issue]⟩
  | stream =>
    rw [hs, show s.cfg.transport = .stream by simp [Params.transport, hl], exec_instr_stream hw]
    have hstream : streamOp r (Config.SYNC :: writePhase s.cfg.opcodes r) (readLength r.op) (opValue r.op)
        { s with host := items } = .next { s with
          phase := .sWrite, req := some r, host := items,
          held := s.held ++ (Config.SYNC :: writePhase s.cfg.opcodes r),
          trace := s.trace ++
            [.call s.cfg.handle (.streamWriteAll (Config.SYNC :: writePhase s.cfg.opcodes r))] } := by
      simp [streamOp, hl, hp, State.accept, State.issue, State.hand]
    by_cases hm : readLength r.op = 0
    · exact ⟨.sWrite, _, _, _, by simp [opCalls, hl, hm], .write hl (.flushOfWrite hl hm), hstream⟩
    · exact ⟨.sWrite, _, _, _, by simp [opCalls, hl, hm], .write hl (.flushOfRead hl hm), hstream⟩

section
variable {s : State} {r : Request} {p : Phase} {k k' : Call} {ks : List Call} {rest : List Answer}

/-- While an operation runs, the step is the wait for its pending call. -/
theorem step_eq_await (hr : s.req = some r) (hw : r.wellFormed = true) (hp : s.phase = p)
    (hc : CallsLeft s.cfg r p ks) : ∃ resp next, step s = .next (s.await resp next) := by
  cases hc with
  | bus hl => exact ⟨_, _, step_bXact hp hr hl hw⟩
  | read hl => exact ⟨_, _, step_sRead hp hr hl hw⟩
  | flushOfWrite hl _ => exact ⟨_, _, step_sFlush hp hr hl hw⟩
  | flushOfRead hl _ => exact ⟨_, _, step_sFlush hp hr hl hw⟩
  | write hl _ => exact ⟨_, _, step_sWrite hp hr hl hw⟩

/-- An Err ends the operation, whatever calls are left (60_exceptions.md R113). -/
theorem step_ends_on_err (hr : s.req = some r) (hw : r.wellFormed = true) (hp : s.phase = p)
    (hc : CallsLeft s.cfg r p ks) {e : TErr} (he : s.env = .returns (.err e) :: rest) :
    step s = .next (s.ended rest (s.trace ++ [.ret (.err e)]) s.held (.err (.commErr e))) := by
  obtain ⟨resp, next, hs⟩ := step_eq_await hr hw hp hc
  rw [hs, State.await_err (State.answer_of_cons he), State.returned_of_cons he]
  rfl

/-- The Ok of the last call ends the operation with its value. -/
theorem step_ends_on_last_ok (hr : s.req = some r) (hw : r.wellFormed = true) (hp : s.phase = p)
    (hc : CallsLeft s.cfg r p [k]) {b : List Byte} {v : Value} (he : s.env = .returns (.ok b) :: rest)
    (hv : opValue r.op b = some v) :
    ∃ held, step s = .next (s.ended rest (s.trace ++ [.ret (.ok b)]) held (.ok v)) := by
  have ha := State.answer_of_cons he
  cases hc with
  | bus hl =>
    exact ⟨s.held, by rw [step_bXact hp hr hl hw, State.await_ok ha hv, State.returned_of_cons he]; rfl⟩
  | read hl =>
    exact ⟨s.held, by rw [step_sRead hp hr hl hw, State.await_ok ha hv, State.returned_of_cons he]; rfl⟩
  | flushOfWrite hl hm =>
    have hu : opValue r.op = respUnit := by cases ho : r.op <;> simp_all [readLength, opValue]
    rw [hu] at hv
    obtain ⟨-, rfl⟩ := respUnit_eq_some hv
    refine ⟨[], ?_⟩
    rw [step_sFlush hp hr hl hw, State.await_ok ha hv, State.returned_of_cons he, streamAfterFlush, if_pos hm]
    rfl
  | write _ hf => cases hf

/-- The Ok of a call that is not the last issues the next one. -/
theorem step_issues_next_on_ok (hr : s.req = some r) (hw : r.wellFormed = true) (hp : s.phase = p)
    (hc : CallsLeft s.cfg r p (k :: k' :: ks)) (he : s.env = .returns (.ok []) :: rest) :
    ∃ p' held, CallsLeft s.cfg r p' (k' :: ks) ∧ step s = .next { s with
      phase := p', env := rest, held := held, trace := s.trace ++ [.ret (.ok [])] ++ [.call s.cfg.handle k'] } := by
  have ha := State.answer_of_cons he
  have hu : respUnit [] = some .unit := rfl
  cases hc with
  | flushOfRead hl hm =>
    refine ⟨.sRead, [], .read hl, ?_⟩
    rw [step_sFlush hp hr hl hw, State.await_ok ha hu, State.returned_of_cons he, streamAfterFlush, if_neg hm]
    rfl
  | write hl hf =>
    refine ⟨.sFlush, s.held, hf, ?_⟩
    rw [step_sWrite hp hr hl hw, State.await_ok ha hu, State.returned_of_cons he]
    cases hf <;> rfl

end

/-- A running operation whose pending call is the last event of the trace `past ++ [call]` ends, one step for each return, with
the events and the result that `opRun` makes of the calls left. -/
theorem run_of_callsLeft {s : State} {r : Request} {p : Phase} {k : Call} {ks : List Call} {used : List Return}
    {later : List Answer} {past es : List Event} {res : Result} (hr : s.req = some r) (hw : r.wellFormed = true)
    (hp : s.phase = p) (hc : CallsLeft s.cfg r p (k :: ks)) (henv : s.env = used.map Answer.returns ++ later)
    (htr : s.trace = past ++ [.call s.cfg.handle k])
    (ho : opRun s.cfg.handle r.op (k :: ks) used = some (es, res)) (hlen : es.length = 2 * used.length) :
    ∃ held, Host.Core.run core used.length s = .next (s.ended later (past ++ es) held res) := by
  induction used generalizing s p k ks past es with
  | nil => simp [opRun] at ho
  | cons ret used ih =>
    rw [List.map_cons, List.cons_append] at henv
    cases ret with
    | err e =>
      simp only [opRun, Option.some.injEq, Prod.mk.injEq] at ho
      obtain ⟨rfl, rfl⟩ := ho
      obtain rfl : used = [] := by simpa using hlen
      refine ⟨s.held, ?_⟩
      rw [List.length_singleton, run_succ_of_next (step_ends_on_err hr hw hp hc henv), run_zero]
      simp [htr]
    | ok b =>
      cases ks with
      | nil =>
        simp only [opRun, Option.map_eq_some_iff, Prod.mk.injEq] at ho
        obtain ⟨v, hv, rfl, rfl⟩ := ho
        obtain rfl : used = [] := by simpa using hlen
        obtain ⟨held, hs⟩ := step_ends_on_last_ok hr hw hp hc henv hv
        refine ⟨held, ?_⟩
        rw [List.length_singleton, run_succ_of_next hs, run_zero]
        simp [htr]
      | cons k' ks =>
        simp only [opRun, Option.ite_none_right_eq_some, Option.map_eq_some_iff, Prod.mk.injEq] at ho
        obtain ⟨rfl, ⟨es', res'⟩, ho', rfl, rfl⟩ := ho
        have hlen' : es'.length = 2 * used.length := by simp only [List.length_cons] at hlen; omega
        obtain ⟨p', held', hc', hs⟩ := step_issues_next_on_ok hr hw hp hc henv
        obtain ⟨held, hrun⟩ := ih (s := { s with
            phase := p', env := used.map Answer.returns ++ later, held := held',
            trace := s.trace ++ [.ret (.ok [])] ++ [.call s.cfg.handle k'] }) hr rfl hc' rfl rfl ho' hlen'
        refine ⟨held, ?_⟩
        rw [List.length_cons, run_succ_of_next hs, hrun]
        simp [State.ended, htr]

/-- Settles O24: the acceptance leaves all the calls of the operation, and each return then takes one step. -/
theorem operationIsFunctionOfRequestAndReturns : Obligations.OperationIsFunctionOfRequestAndReturns := by
  unfold Obligations.OperationIsFunctionOfRequestAndReturns
  intro s r items used later es res hp _ hw hh henv ho hlen
  obtain ⟨p, k, ks, held, hk, hc, hs⟩ := step_accepts_request hp hw hh
  rw [hk] at ho
  obtain ⟨held', hrun⟩ := run_of_callsLeft (s := { s with
      phase := p, req := some r, host := items, held := held, trace := s.trace ++ [.call s.cfg.handle k] })
    rfl hw rfl hc henv rfl ho hlen
  rw [run_succ_of_next hs]
  exact ⟨_, hrun, rfl, rfl, rfl, rfl, rfl, rfl, rfl, rfl, rfl⟩

end Sys2Proof.Machine
end

section
/-! SUPPORT. The shapes of the rows and of a step: which shared operation an instruction is, which variant has it, and what a
step finds to do. -/

namespace Sys2Proof

theorem Params.transport_eq_bus {c : Params} : c.transport = .bus ↔ ∃ t, c.link = .bus t := by
  unfold Params.transport
  cases c.link <;> simp

theorem Params.transport_eq_stream {c : Params} : c.transport = .stream ↔ c.link = .stream := by
  unfold Params.transport
  cases c.link <;> simp

/-- The operation of a request, on a variant, is one that configurations of that variant have, and no others. -/
theorem Request.instr_wellFormed (r : Request) (t : Transport) (c : Params) :
    (r.instr t).wellFormed c = (c.transport == t) := by
  obtain ⟨op, a, d⟩ := r
  cases t <;> cases op <;> rfl

/-- What decodes under a configuration is an instruction of its variant (30_encoding.md R58). -/
theorem decode_wellFormed {c : Params} {it : Item} {i : Instr} (h : decode c it = .ok i) : i.wellFormed c = true := by
  cases it with
  | request w =>
    cases hr : decodeRequest w with
    | error e => simp [decode, hr, Except.map] at h
    | ok r =>
      simp only [decode, hr, Except.map, Except.ok.injEq] at h
      simp [← h, Request.instr_wellFormed]
  | command b =>
    cases hr : readCommand c.opcodes b with
    | error e => simp [decode, hr, Except.map] at h
    | ok ka =>
      simp only [decode, hr, Except.map, Except.ok.injEq] at h
      obtain ⟨k, a⟩ := ka
      cases k <;> simp [← h, commandInstr, Instr.wellFormed]
  | sync b =>
    simp only [decode] at h
    split at h <;> cases h
    rfl
  | response r => cases h; rfl

end Sys2Proof

namespace Sys2Proof.Machine

/-- Every row drives a combinational part, on both variants, or is a BUS operation, or is a STREAM operation; of the
state, what it is given besides the state itself is the opcodes alone. -/
theorem exec_shape (i : Instr) :
    (∃ o : Opcodes → CombOut, (∀ c, i.wellFormed c = true) ∧ ∀ s, exec i s = .next (s.drive (o s.cfg.opcodes))) ∨
    (∃ r, ∃ call : Opcodes → BusAddr → Call, ∃ resp, (∀ c, i.wellFormed c = (c.transport == .bus)) ∧
      ∀ s, exec i s = busOp r (call s.cfg.opcodes) resp s) ∨
    (∃ r, ∃ frame : Opcodes → List Byte, ∃ m resp, (∀ c, i.wellFormed c = (c.transport == .stream)) ∧
      ∀ s, exec i s = streamOp r (frame s.cfg.opcodes) m resp s) := by
  cases i with
  | cmdWreg a => exact .inl ⟨fun o => .command (encodeCommand o .writeReg a), fun _ => rfl, fun _ => rfl⟩
  | cmdRreg a => exact .inl ⟨fun o => .command (encodeCommand o .readReg a), fun _ => rfl, fun _ => rfl⟩
  | cmdRdata => exact .inl ⟨fun o => .command (encodeCommand o .readData 0#6), fun _ => rfl, fun _ => rfl⟩
  | busWrreg a v =>
    exact .inr (.inl ⟨_, fun o t => .busWrite t [encodeCommand o .writeReg a, v], _, fun _ => rfl, fun _ => rfl⟩)
  | busWrraw p => exact .inr (.inl ⟨_, fun _ t => .busWrite t [p], _, fun _ => rfl, fun _ => rfl⟩)
  | busRdreg a =>
    exact .inr (.inl ⟨_, fun o t => .busWriteRead t [encodeCommand o .readReg a] 1, _, fun _ => rfl, fun _ => rfl⟩)
  | busRdsample =>
    exact .inr (.inl ⟨_, fun o t => .busWriteRead t [encodeCommand o .readData 0#6] 3, _, fun _ => rfl, fun _ => rfl⟩)
  | streamWrreg a v =>
    exact .inr (.inr ⟨_, fun o => [Config.SYNC, encodeCommand o .writeReg a, v], _, _, fun _ => rfl, fun _ => rfl⟩)
  | streamWrraw p => exact .inr (.inr ⟨_, fun _ => [Config.SYNC, p], _, _, fun _ => rfl, fun _ => rfl⟩)
  | streamRdreg a =>
    exact .inr (.inr ⟨_, fun o => [Config.SYNC, encodeCommand o .readReg a], _, _, fun _ => rfl, fun _ => rfl⟩)
  | streamRdsample =>
    exact .inr (.inr ⟨_, fun o => [Config.SYNC, encodeCommand o .readData 0#6], _, _, fun _ => rfl, fun _ => rfl⟩)
  | sampleResponse b0 b1 b2 => exact .inl ⟨fun _ => .sample (decodeSample b0 b1 b2), fun _ => rfl, fun _ => rfl⟩
  | sync => exact .inl ⟨fun _ => .sync Config.SYNC, fun _ => rfl, fun _ => rfl⟩

/-- An instruction the variant does not have is refused (10_state.md R12). -/
theorem exec_refused_of_not_wellFormed {i : Instr} {s : State} (h : i.wellFormed s.cfg = false) :
    exec i s = .refused .operationOfOtherVariant := by
  obtain ⟨o, hw, -⟩ | ⟨r, call, resp, hw, he⟩ | ⟨r, frame, m, resp, hw, he⟩ := exec_shape i <;> rw [hw] at h
  · cases h
  · cases hl : s.cfg.link with
    | bus t => simp [Params.transport, hl] at h
    | stream => rw [he, busOp, hl]
  · cases hl : s.cfg.link with
    | bus t => rw [he, streamOp, hl]
    | stream => simp [Params.transport, hl] at h

/-- In IDLE an instruction the variant has answers a next state. -/
theorem exec_next_of_idle {i : Instr} {s : State} (h : i.wellFormed s.cfg = true) (hp : s.phase = .idle) :
    ∃ t, exec i s = .next t := by
  obtain ⟨o, -, he⟩ | ⟨r, call, resp, hw, he⟩ | ⟨r, frame, m, resp, hw, he⟩ := exec_shape i
  · exact ⟨_, he s⟩
  · rw [hw, beq_iff_eq] at h
    obtain ⟨t, hl⟩ := Params.transport_eq_bus.mp h
    exact ⟨_, by rw [he, busOp, hl, hp]⟩
  · rw [hw, beq_iff_eq] at h
    exact ⟨_, by rw [he, streamOp, Params.transport_eq_stream.mp h, hp]⟩

/-- In IDLE a step answers a next state, whatever is presented. -/
theorem step_next_of_idle {s : State} (hp : s.phase = .idle) : ∃ s', step s = .next s' := by
  unfold step
  rw [fetch_of_idle hp, fetchPresented]
  cases s.host with
  | nil => exact ⟨s, rfl⟩
  | cons it rest =>
    cases hd : decode s.cfg it with
    | error e => exact ⟨{ s with host := rest }, by simp only [hd]⟩
    | ok i =>
      simp only [hd]
      exact exec_next_of_idle (s := { s with host := rest }) (decode_wellFormed hd) hp

/-- The states agree on all that a step looks at: the configuration, the sequencer's state, what the host presents and what the
environment answers. -/
structure State.Agrees (s u : State) : Prop where
  cfg : s.cfg = u.cfg
  phase : s.phase = u.phase
  req : s.req = u.req
  host : s.host = u.host
  env : s.env = u.env
  draws : s.draws = u.draws

theorem State.Agrees.refl (s : State) : s.Agrees s := ⟨rfl, rfl, rfl, rfl, rfl, rfl⟩

theorem State.Agrees.answer {s u : State} (h : s.Agrees u) : s.answer = u.answer := by
  unfold State.answer
  rw [h.env, h.draws]

/-- What a step finds to do, the same in all states that agree: at most an item of the host is taken, and an instruction is
run. -/
theorem fetch_cases (s : State) :
    (∃ rest, ∀ u, s.Agrees u → fetch u = .quiet { u with host := rest }) ∨
    (∃ i rest, ∀ u, s.Agrees u → fetch u = .run i { u with host := rest }) ∨
    (∃ f, ∀ u, s.Agrees u → fetch u = .stuck f) := by
  by_cases hp : s.phase = .idle
  · have idle : ∀ u, s.Agrees u → fetch u = fetchPresented u := fun u h => fetch_of_idle (h.phase ▸ hp)
    cases hh : s.host with
    | nil =>
      refine .inl ⟨[], fun u h => ?_⟩
      have hu : u.host = [] := h.host ▸ hh
      have taken : { u with host := [] } = u := by rw [← hu]
      rw [taken, idle u h, fetchPresented, hu]
    | cons it rest =>
      have taken : ∀ u, s.Agrees u → u.host = it :: rest := fun u h => h.host ▸ hh
      cases hd : decode s.cfg it with
      | error e => exact .inl ⟨rest, fun u h => by simp [idle u h, fetchPresented, taken u h, ← h.cfg, hd]⟩
      | ok i => exact .inr (.inl ⟨i, rest, fun u h => by simp [idle u h, fetchPresented, taken u h, ← h.cfg, hd]⟩)
  · have busy : ∀ u, s.Agrees u → fetch u = fetchRunning u := fun u h => fetch_of_busy (h.phase ▸ hp)
    cases hr : s.req with
    | none => exact .inr (.inr ⟨.noLatchedRequest, fun u h => by simp [busy u h, fetchRunning, ← h.req, hr]⟩)
    | some r =>
      refine .inr (.inl ⟨r.instr s.cfg.transport, s.host, fun u h => ?_⟩)
      have untaken : { u with host := s.host } = u := by rw [h.host]
      rw [untaken, h.cfg, busy u h, fetchRunning, ← h.req, hr]

/-- What a step that answers a next state has done, in every state: taken at most an item, or run an instruction. -/
theorem step_next_cases {s s' : State} (hs : step s = .next s') :
    (∃ rest, s' = { s with host := rest }) ∨ ∃ i rest, exec i { s with host := rest } = .next s' := by
  obtain ⟨rest, hf⟩ | ⟨i, rest, hf⟩ | ⟨f, hf⟩ := fetch_cases s <;> rw [step, hf s (.refl s)] at hs
  · cases hs; exact .inl ⟨rest, rfl⟩
  · exact .inr ⟨i, rest, hs⟩
  · cases hs

end Sys2Proof.Machine
end

section
/-! The state of the sequencer (10_state.md R13 to R18): its shape, its configuration, its table, and the stops no run
reaches. -/

namespace Sys2Proof.Machine

/-- The shapes of `sequencerInv_cases` are all of the invariant but the lawful configuration. -/
theorem sequencerInv_of_cases {s : State} (hc : s.cfg.wellFormed = true)
    (h : (s.phase = .idle ∧ s.req = none) ∨
      ∃ r, s.req = some r ∧ r.wellFormed = true ∧
        ((s.phase = .bXact ∧ ∃ t, s.cfg.link = .bus t) ∨
         (s.cfg.link = .stream ∧
          (s.phase = .sWrite ∨ s.phase = .sFlush ∨
           (s.phase = .sRead ∧ readLength r.op ≠ 0 ∧ s.held = []))))) : s.sequencerInv = true := by
  obtain ⟨hp, hr⟩ | ⟨r, hr, hw, ⟨hp, t, hl⟩ | ⟨hl, hp | hp | ⟨hp, hm, hh⟩⟩⟩ := h
  · simp [State.sequencerInv, hc, hp, hr]
  · simp [State.sequencerInv, hc, hp, hr, hw, Phase.fits, Params.transport, hl]
  · simp [State.sequencerInv, hc, hp, hr, hw, Phase.fits, Params.transport, hl]
  · simp [State.sequencerInv, hc, hp, hr, hw, Phase.fits, Params.transport, hl]
  · simp [State.sequencerInv, hc, hp, hr, hw, Phase.fits, Params.transport, hl, hm, hh]

/-- The end of an operation, whatever its result, restores the shape. -/
theorem State.finish_sequencerInv {s : State} (hc : s.cfg.wellFormed = true) (res : Result) :
    (s.finish res).sequencerInv = true :=
  sequencerInv_of_cases hc (.inl ⟨rfl, rfl⟩)

theorem req_eq_none_of_idle {s : State} (hi : s.sequencerInv = true) (hp : s.phase = .idle) : s.req = none := by
  obtain ⟨-, hr⟩ | ⟨r, -, -, ⟨hp', -⟩ | ⟨-, hp' | hp' | ⟨hp', -⟩⟩⟩ := sequencerInv_cases hi
  · exact hr
  all_goals rw [hp] at hp'; cases hp'

theorem phase_ne_idle_of_req {s : State} {r : Request} (hi : s.sequencerInv = true) (hr : s.req = some r) :
    s.phase ≠ .idle := by
  intro hp
  rw [req_eq_none_of_idle hi hp] at hr
  cases hr

theorem streamAfterFlush_of_write {m : Nat} (hm : m = 0) (s : State) :
    streamAfterFlush m s = s.flushed.finish (.ok .unit) := if_pos hm

theorem streamAfterFlush_of_read {m : Nat} (hm : m ≠ 0) (s : State) :
    streamAfterFlush m s = s.flushed.issue .sRead (.streamReadExact m) := if_neg hm

/-- Settles O3: an acceptance latches a request of the right variant, an Ok leads along the table, and the read is issued only
behind the flush that emptied the stream primitive. -/
theorem stepKeepsSequencerInv : Obligations.StepKeepsSequencerInv := by
  unfold Obligations.StepKeepsSequencerInv
  intro s s' hi hs
  have hc := wellFormed_of_sequencerInv hi
  by_cases hp : s.phase = .idle
  · have hr := req_eq_none_of_idle hi hp
    obtain ⟨rest, rfl⟩ | ⟨rest, o, rfl⟩ | ⟨rest, r, t, hw, hl, rfl⟩ | ⟨rest, r, hw, hl, rfl⟩ := step_idle_cases hp hs
    · exact sequencerInv_of_cases hc (.inl ⟨hp, hr⟩)
    · exact sequencerInv_of_cases hc (.inl ⟨hp, hr⟩)
    · exact sequencerInv_of_cases hc (.inr ⟨r, rfl, hw, .inl ⟨rfl, t, hl⟩⟩)
    · exact sequencerInv_of_cases hc (.inr ⟨r, rfl, hw, .inr ⟨hl, .inl rfl⟩⟩)
  · obtain ⟨r, hr, hw, ⟨-, rfl⟩ | ⟨-, e, -, rfl⟩ | ⟨-, b, -, ⟨-, v, -, rfl⟩ | ⟨-, -, hl, rfl⟩ | ⟨-, -, hl, rfl⟩ |
      ⟨-, -, v, -, rfl⟩⟩⟩ := step_busy_cases hi hp hs
    · exact hi
    · exact State.finish_sequencerInv hc (.err (.commErr e))
    · exact State.finish_sequencerInv hc (.ok v)
    · exact sequencerInv_of_cases hc (.inr ⟨r, hr, hw, .inr ⟨hl, .inr (.inl rfl)⟩⟩)
    · by_cases hm : readLength r.op = 0
      · rw [streamAfterFlush_of_write hm]
        exact State.finish_sequencerInv hc (.ok .unit)
      · rw [streamAfterFlush_of_read hm]
        exact sequencerInv_of_cases hc (.inr ⟨r, hr, hw, .inr ⟨hl, .inr (.inr ⟨rfl, hm, rfl⟩)⟩⟩)
    · exact State.finish_sequencerInv hc (.ok v)

/-- The wait keeps the configuration when what it goes on with does. -/
theorem State.await_cfg (s : State) (resp : List Byte → Option Value) {k : Value → State → State}
    (hk : ∀ v t, (k v t).cfg = t.cfg) : (s.await resp k).cfg = s.cfg := by
  obtain ⟨h, -⟩ | ⟨e, -, h⟩ | ⟨b, v, -, -, h⟩ := s.await_cases resp k <;> rw [h]
  · rfl
  · exact hk _ _

theorem streamAfterFlush_cfg (m : Nat) (s : State) : (streamAfterFlush m s).cfg = s.cfg := by
  unfold streamAfterFlush
  split <;> rfl

theorem busOp_cfg {r : Request} {call : BusAddr → Call} {resp : List Byte → Option Value} {s t : State}
    (h : busOp r call resp s = .next t) : t.cfg = s.cfg := by
  obtain ⟨target, -, ⟨-, rfl⟩ | ⟨-, -, rfl⟩ | ⟨-, -, rfl⟩⟩ := busOp_next_cases h
  · rfl
  · exact s.await_cfg _ fun _ _ => rfl
  · rfl

theorem streamOp_cfg {r : Request} {frame : List Byte} {m : Nat} {resp : List Byte → Option Value} {s t : State}
    (h : streamOp r frame m resp s = .next t) : t.cfg = s.cfg := by
  obtain ⟨-, ⟨-, rfl⟩ | ⟨-, -, rfl⟩ | ⟨-, -, rfl⟩ | ⟨-, -, rfl⟩ | ⟨-, -, -, rfl⟩⟩ := streamOp_next_cases h
  · rfl
  · exact s.await_cfg _ fun _ _ => rfl
  · exact s.await_cfg _ fun _ u => streamAfterFlush_cfg m u
  · exact s.await_cfg _ fun _ _ => rfl
  · rfl

theorem exec_cfg {i : Instr} {s t : State} (h : exec i s = .next t) : t.cfg = s.cfg := by
  obtain ⟨o, -, he⟩ | ⟨r, call, resp, -, he⟩ | ⟨r, frame, m, resp, -, he⟩ := exec_shape i <;> rw [he] at h
  · cases h; rfl
  · exact busOp_cfg h
  · exact streamOp_cfg h

/-- Settles O5: the host's list aside, a step is an instruction's, and no instruction writes the configuration. -/
theorem stepKeepsConfiguration : Obligations.StepKeepsConfiguration := by
  unfold Obligations.StepKeepsConfiguration
  intro s s' hs
  obtain ⟨rest, rfl⟩ | ⟨i, rest, he⟩ := step_next_cases hs
  · rfl
  · exact (exec_cfg he :)

/-- Settles O7: in IDLE only what the variant has is decoded, and in the other phases the step is the wait for the call of
the phase. -/
theorem stepAlwaysAnswersNext : Obligations.StepAlwaysAnswersNext := by
  unfold Obligations.StepAlwaysAnswersNext
  intro s hi
  obtain ⟨hp, -⟩ | ⟨r, hr, hw, ⟨hp, t, hl⟩ | ⟨hl, hp | hp | ⟨hp, -⟩⟩⟩ := sequencerInv_cases hi
  · exact step_next_of_idle hp
  · exact ⟨_, step_bXact hp hr hl hw⟩
  · exact ⟨_, step_sWrite hp hr hl hw⟩
  · exact ⟨_, step_sFlush hp hr hl hw⟩
  · exact ⟨_, step_sRead hp hr hl hw⟩

/-- Settles O14: a request's operation belongs to one variant, and what the variant does not have is refused. -/
theorem otherVariantsOperationsAreRefused : Obligations.OtherVariantsOperationsAreRefused := by
  unfold Obligations.OtherVariantsOperationsAreRefused
  refine ⟨fun s r t hl => ?_, fun s r hl => ?_, fun c it i h => decode_wellFormed h⟩
  · apply exec_refused_of_not_wellFormed
    rw [Request.instr_wellFormed, Params.transport_eq_bus.mpr ⟨t, hl⟩]
    rfl
  · apply exec_refused_of_not_wellFormed
    rw [Request.instr_wellFormed, Params.transport_eq_stream.mpr hl]
    rfl

/-- A flush that returned Ok is served. -/
theorem served_of_sFlush_ok {s : State} {r : Request} (hp : s.phase = .sFlush) (hr : s.req = some r)
    (ha : s.answer = .returns (.ok [])) : s.served = true := by
  simp [State.served, State.pending, pendingCall, hp, hr, ha, Call.delivers]

theorem streamAfterFlush_held (m : Nat) (s : State) : (streamAfterFlush m s).held = [] := by
  unfold streamAfterFlush
  split <;> rfl

/-- In IDLE the bound grows by the frame of a STREAM request that is accepted, and by nothing else. -/
theorem held_of_step_idle {s s' : State} {r : Request} (hp : s.phase = .idle) (hs : step s = .next s') :
    (s'.phase = .sWrite → s'.req = some r → s'.held = s.held ++ (Config.SYNC :: writePhase s.cfg.opcodes r)) ∧
    (s'.phase ≠ .sWrite → s'.held = s.held) := by
  have unwritten : s.phase ≠ .sWrite := by simp [hp]
  obtain ⟨rest, rfl⟩ | ⟨rest, o, rfl⟩ | ⟨rest, q, t, -, -, rfl⟩ | ⟨rest, q, -, -, rfl⟩ := step_idle_cases hp hs
  · exact ⟨(absurd · unwritten), fun _ => rfl⟩
  · exact ⟨(absurd · unwritten), fun _ => rfl⟩
  · exact ⟨nofun, fun _ => rfl⟩
  · exact ⟨fun _ hq => by cases hq; rfl, (absurd rfl ·)⟩

/-- Settles O23: only the acceptance on STREAM and the Ok of the flush write the bound. -/
theorem streamBufferBoundFollowsTheCalls : Obligations.StreamBufferBoundFollowsTheCalls := by
  unfold Obligations.StreamBufferBoundFollowsTheCalls
  intro s s' r hi hs
  by_cases hp : s.phase = .idle
  · obtain ⟨hframe, hkept⟩ := held_of_step_idle (r := r) hp hs
    exact ⟨fun _ => hframe, fun _ => hkept, by simp [hp], by simp [hp], by simp [hp]⟩
  · refine ⟨(absurd · hp), (absurd · hp), ?_⟩
    obtain ⟨q, hr, -, ⟨hn, rfl⟩ | ⟨-, e, ha, rfl⟩ | ⟨-, b, ha, ⟨hq, v, -, rfl⟩ | ⟨hq, -, -, rfl⟩ | ⟨hq, rfl, -, rfl⟩ |
      ⟨hq, -, v, -, rfl⟩⟩⟩ := step_busy_cases hi hp hs
    · refine ⟨fun hf ha => ?_, fun _ => rfl, fun _ => ⟨fun _ _ => rfl, fun _ => rfl⟩⟩
      rw [served_of_sFlush_ok hf hr ha] at hn
      cases hn
    · exact ⟨fun _ h => (by rw [ha] at h; cases h), fun _ => rfl, fun _ => ⟨fun _ _ => rfl, fun _ => rfl⟩⟩
    · exact ⟨by simp [hq], fun _ => rfl, by simp [hq]⟩
    · exact ⟨by simp [hq], fun _ => rfl, by simp [hq]⟩
    · exact ⟨fun _ _ => streamAfterFlush_held _ _, by simp [hq], fun _ => by simp [ha]⟩
    · exact ⟨by simp [hq], fun _ => rfl, by simp [hq]⟩

theorem readLength_eq_zero {op : ReqOp} : readLength op = 0 ↔ op = .wrreg ∨ op = .wrraw := by
  cases op <;> simp [readLength]

theorem readLength_ne_zero {op : ReqOp} : readLength op ≠ 0 ↔ op = .rdreg ∨ op = .rdsample := by
  cases op <;> simp [readLength]

/-- Settles O30: the rows are those of `step_busy_cases`; a write and a read differ behind the flush. -/
theorem phaseFollowsTheTable : Obligations.PhaseFollowsTheTable := by
  unfold Obligations.PhaseFollowsTheTable
  intro s s' r hi hr hs
  obtain ⟨q, hq, -, h⟩ := step_busy_cases hi (phase_ne_idle_of_req hi hr) hs
  obtain rfl : r = q := Option.some.inj (hr.symm.trans hq)
  obtain h | ⟨hv, e, ha, rfl⟩ | ⟨hv, b, ha, h⟩ := h
  · exact .inl h
  · exact .inr (.inl ⟨hv, e, ha, rfl, rfl, rfl⟩)
  · refine .inr (.inr ⟨hv, b, ha, ?_⟩)
    obtain ⟨hp, v, hb, rfl⟩ | ⟨hp, -, -, rfl⟩ | ⟨hp, -, -, rfl⟩ | ⟨hp, -, v, hb, rfl⟩ := h
    · exact .inl ⟨hp, rfl, rfl, v, hb, rfl⟩
    · exact .inr (.inl ⟨hp, rfl, rfl, rfl⟩)
    · by_cases hm : readLength r.op = 0
      · rw [streamAfterFlush_of_write hm]
        exact .inr (.inr (.inl ⟨hp, readLength_eq_zero.mp hm, rfl, rfl, rfl⟩))
      · rw [streamAfterFlush_of_read hm]
        exact .inr (.inr (.inr (.inl ⟨hp, readLength_ne_zero.mp hm, rfl, rfl, rfl⟩)))
    · exact .inr (.inr (.inr (.inr ⟨hp, rfl, rfl, v, hb, rfl⟩)))

theorem State.construct_sequencerInv {c : Params} (hc : c.wellFormed = true) :
    (State.construct c).sequencerInv = true :=
  sequencerInv_of_cases hc (.inl ⟨rfl, rfl⟩)

theorem State.construct_protocolInv (c : Params) : (State.construct c).protocolInv = true := rfl

theorem State.construct_samplesUnsigned (c : Params) : (State.construct c).samplesUnsigned :=
  fun _ hv => absurd hv List.not_mem_nil

/-- Settles O2: what construction leaves is IDLE with an empty record; the opcodes of State.reset are lawful whatever they
are. -/
theorem constructionMeetsTheInvariants : Obligations.ConstructionMeetsTheInvariants := by
  unfold Obligations.ConstructionMeetsTheInvariants
  have lawful : Config.build.wellFormed = true := decide_eq_true Config.opcodes_lawful
  exact ⟨fun c hc => ⟨State.construct_sequencerInv hc, State.construct_protocolInv c, State.construct_samplesUnsigned c⟩,
    State.construct_sequencerInv lawful, State.construct_protocolInv _, State.construct_samplesUnsigned _⟩

/-- Settles O9: outside IDLE the fetch is the latched request's operation. -/
theorem stepRunsTheRunningOperation : Obligations.StepRunsTheRunningOperation := by
  unfold Obligations.StepRunsTheRunningOperation
  intro s r hp hr
  rw [step, fetch_of_busy hp, fetchRunning, hr]

/-- Settles O10: an empty list of the host's is nothing to run. -/
theorem idleWithoutRequestDoesNothing : Obligations.IdleWithoutRequestDoesNothing := by
  unfold Obligations.IdleWithoutRequestDoesNothing
  intro s hp hh
  rw [step, fetch_of_idle hp, fetchPresented, hh]

end Sys2Proof.Machine
end

section
/-! What lies behind a state does not matter (10_state.md R13): the record, what the stream primitive holds and what was driven
last are written and never read. -/

namespace Sys2Proof.Machine

/-- From `s` to `s'` and from `u` to `u'` the same events and results are added, and the new states agree. -/
structure AddsAlike (s u s' u' : State) : Prop where
  agrees : s'.Agrees u'
  trace : ∃ es, s'.trace = s.trace ++ es ∧ u'.trace = u.trace ++ es
  results : ∃ rs, s'.results = s.results ++ rs ∧ u'.results = u.results ++ rs

theorem AddsAlike.refl {s u : State} (h : s.Agrees u) : AddsAlike s u s u :=
  ⟨h, ⟨[], by simp⟩, ⟨[], by simp⟩⟩

theorem AddsAlike.trans {s u s' u' s'' u'' : State} (h : AddsAlike s u s' u') (h' : AddsAlike s' u' s'' u'') :
    AddsAlike s u s'' u'' := by
  obtain ⟨-, ⟨es, hs, hu⟩, ⟨rs, gs, gu⟩⟩ := h
  obtain ⟨ha, ⟨es', hs', hu'⟩, ⟨rs', gs', gu'⟩⟩ := h'
  exact ⟨ha, ⟨es ++ es', by simp [hs, hs'], by simp [hu, hu']⟩, ⟨rs ++ rs', by simp [gs, gs'], by simp [gu, gu']⟩⟩

/-- An operation on the state that reads nothing of what lies behind it. -/
def HistoryFree (f : State → State) : Prop := ∀ s u, s.Agrees u → AddsAlike s u (f s) (f u)

theorem HistoryFree.comp {f g : State → State} (hf : HistoryFree f) (hg : HistoryFree g) :
    HistoryFree (fun s => f (g s)) :=
  fun s u h => (hg s u h).trans (hf _ _ (hg s u h).agrees)

theorem historyFree_issue (p : Phase) (k : Call) : HistoryFree (State.issue · p k) :=
  fun _ _ h => ⟨{ h with phase := rfl }, ⟨_, rfl, by simp [h.cfg]⟩, ⟨[], by simp⟩⟩

theorem historyFree_accept (r : Request) (p : Phase) (k : Call) : HistoryFree (State.accept · r p k) :=
  fun _ _ h => ⟨{ h with phase := rfl, req := rfl }, ⟨_, rfl, by simp [h.cfg]⟩, ⟨[], by simp⟩⟩

theorem historyFree_finish (res : Result) : HistoryFree (State.finish · res) :=
  fun _ _ h => ⟨{ h with phase := rfl, req := rfl }, ⟨[], by simp⟩, ⟨_, rfl, rfl⟩⟩

theorem historyFree_hand (bs : List Byte) : HistoryFree (State.hand · bs) :=
  fun _ _ h => ⟨{ h with }, ⟨[], by simp⟩, ⟨[], by simp⟩⟩

theorem historyFree_flushed : HistoryFree State.flushed :=
  fun _ _ h => ⟨{ h with }, ⟨[], by simp⟩, ⟨[], by simp⟩⟩

theorem historyFree_drive (o : Opcodes → CombOut) : HistoryFree (fun s => s.drive (o s.cfg.opcodes)) :=
  fun _ _ h => ⟨{ h with }, ⟨[], by simp⟩, ⟨[], by simp⟩⟩

theorem historyFree_withHost (items : List Item) : HistoryFree (fun s => { s with host := items }) :=
  fun _ _ h => ⟨{ h with host := rfl }, ⟨[], by simp⟩, ⟨[], by simp⟩⟩

theorem historyFree_returned (ret : Return) : HistoryFree (State.returned · ret) :=
  fun _ _ h => ⟨{ h with env := by simp [h.env], draws := by simp [State.returned, h.env, h.draws] },
    ⟨_, rfl, rfl⟩, ⟨[], by simp⟩⟩

theorem historyFree_streamAfterFlush (m : Nat) : HistoryFree (streamAfterFlush m) := by
  by_cases hm : m = 0
  · rw [funext (streamAfterFlush_of_write hm)]
    exact (historyFree_finish _).comp historyFree_flushed
  · rw [funext (streamAfterFlush_of_read hm)]
    exact (historyFree_issue _ _).comp historyFree_flushed

/-- Ok with bytes of another number than the call delivers leaves the call pending (log 7). -/
theorem State.await_unread {s : State} {bytes : List Byte} {resp : List Byte → Option Value}
    (h : s.answer = .returns (.ok bytes)) (hn : resp bytes = none) (k : Value → State → State) :
    s.await resp k = s := by
  simp [State.await, h, hn]

/-- The wait reads the environment's answer alone. -/
theorem historyFree_await (resp : List Byte → Option Value) {k : Value → State → State}
    (hk : ∀ v, HistoryFree (k v)) : HistoryFree (fun s => s.await resp k) := by
  intro s u h
  cases ha : u.answer with
  | never =>
    simp only [State.await_never ha, State.await_never (h.answer.trans ha)]
    exact .refl h
  | returns ret =>
    cases ret with
    | err e =>
      simp only [State.await_err ha, State.await_err (h.answer.trans ha)]
      exact (historyFree_finish _).comp (historyFree_returned _) s u h
    | ok b =>
      cases hv : resp b with
      | none =>
        simp only [State.await_unread ha hv, State.await_unread (h.answer.trans ha) hv]
        exact .refl h
      | some v =>
        simp only [State.await_ok ha hv, State.await_ok (h.answer.trans ha) hv]
        exact (hk v).comp (historyFree_returned _) s u h

/-- Where an instruction or a step answers a next state, it answers one in every state that agrees, and adds the same. -/
def AnswersHistoryFree (f : State → Outcome) : Prop :=
  ∀ s u s', s.Agrees u → f s = .next s' → ∃ u', f u = .next u' ∧ AddsAlike s u s' u'

/-- In a phase of its variant an operation acts only where its own request is latched (log 17). -/
theorem historyFree_ifRunning (r : Request) {f : State → State} (hf : HistoryFree f) :
    HistoryFree (fun s => if s.req = some r then f s else s) := by
  intro s u h
  by_cases hr : u.req = some r
  · simp only [h.req, hr, if_true]
    exact hf s u h
  · simp only [h.req, hr, if_false]
    exact .refl h

theorem HistoryFree.answers {f : State → State} (hf : HistoryFree f) : AnswersHistoryFree (fun s => .next (f s)) := by
  rintro s u _ h ⟨⟩
  exact ⟨f u, rfl, hf s u h⟩

theorem busOp_historyFree (r : Request) (call : Opcodes → BusAddr → Call) (resp : List Byte → Option Value) :
    AnswersHistoryFree (fun s => busOp r (call s.cfg.opcodes) resp s) := by
  intro s u s' h hs
  have ended := historyFree_ifRunning r (historyFree_await resp fun v => historyFree_finish (.ok v))
  simp only [busOp, h.cfg, h.phase] at hs ⊢
  cases hl : u.cfg.link with
  | stream => simp [hl] at hs
  | bus t =>
    cases hp : u.phase <;> simp only [hl, hp] at hs ⊢
    case idle => exact (historyFree_accept _ _ _).answers s u s' h hs
    case bXact => exact ended.answers s u s' h hs
    all_goals cases hs

theorem streamOp_historyFree (r : Request) (frame : Opcodes → List Byte) (m : Nat)
    (resp : List Byte → Option Value) :
    AnswersHistoryFree (fun s => streamOp r (frame s.cfg.opcodes) m resp s) := by
  intro s u s' h hs
  have written := historyFree_ifRunning r (historyFree_await respUnit fun _ => historyFree_issue .sFlush .streamFlush)
  have flushed := historyFree_ifRunning r (historyFree_await respUnit fun _ => historyFree_streamAfterFlush m)
  have ended := historyFree_ifRunning r (historyFree_await resp fun v => historyFree_finish (.ok v))
  simp only [streamOp, h.cfg, h.phase] at hs ⊢
  cases hl : u.cfg.link with
  | bus t => simp [hl] at hs
  | stream =>
    cases hp : u.phase <;> simp only [hl, hp] at hs ⊢
    case idle => exact ((historyFree_accept _ _ _).comp (historyFree_hand _)).answers s u s' h hs
    case sWrite => exact written.answers s u s' h hs
    case sFlush => exact flushed.answers s u s' h hs
    case sRead => exact ended.answers s u s' h hs
    case bXact => cases hs

theorem exec_historyFree (i : Instr) : AnswersHistoryFree (exec i) := by
  obtain ⟨o, -, he⟩ | ⟨r, call, resp, -, he⟩ | ⟨r, frame, m, resp, -, he⟩ := exec_shape i <;> rw [funext he]
  · exact (historyFree_drive o).answers
  · exact busOp_historyFree r call resp
  · exact streamOp_historyFree r frame m resp

theorem step_historyFree : AnswersHistoryFree step := by
  intro s u s' h hs
  obtain ⟨rest, hf⟩ | ⟨i, rest, hf⟩ | ⟨f, hf⟩ := fetch_cases s <;> simp only [step, hf s (.refl s), hf u h] at hs ⊢
  · exact (historyFree_withHost rest).answers s u s' h hs
  · have htaken := historyFree_withHost rest s u h
    obtain ⟨u', hu, hadds⟩ := exec_historyFree i _ _ s' htaken.agrees hs
    exact ⟨u', hu, htaken.trans hadds⟩
  · cases hs

/-- A step in the states of the invariant that adds a result ends its operation. -/
theorem idle_of_step_adds_result {s s' : State} (hi : s.sequencerInv = true) (hs : step s = .next s')
    (hn : s'.results ≠ s.results) : s'.phase = .idle ∧ s'.req = none := by
  by_cases hp : s.phase = .idle
  · obtain ⟨rest, rfl⟩ | ⟨rest, o, rfl⟩ | ⟨rest, r, t, -, -, rfl⟩ | ⟨rest, r, -, -, rfl⟩ := step_idle_cases hp hs
    all_goals exact absurd rfl hn
  · obtain ⟨r, -, -, ⟨-, rfl⟩ | ⟨-, e, -, rfl⟩ | ⟨-, b, -, ⟨-, v, -, rfl⟩ | ⟨-, -, -, rfl⟩ | ⟨-, -, -, rfl⟩ |
      ⟨-, -, v, -, rfl⟩⟩⟩ := step_busy_cases hi hp hs
    · exact absurd rfl hn
    · exact ⟨rfl, rfl⟩
    · exact ⟨rfl, rfl⟩
    · exact absurd rfl hn
    · by_cases hm : readLength r.op = 0
      · rw [streamAfterFlush_of_write hm]
        exact ⟨rfl, rfl⟩
      · rw [streamAfterFlush_of_read hm] at hn
        exact absurd rfl hn
    · exact ⟨rfl, rfl⟩

/-- Settles O25: a result ends the operation, and each shared operation a step is made of reads only what the states agree
on. -/
theorem historyDoesNotAffectTheStep : Obligations.HistoryDoesNotAffectTheStep := by
  unfold Obligations.HistoryDoesNotAffectTheStep
  refine ⟨fun s s' hi hs hn => idle_of_step_adds_result hi hs hn, ?_⟩
  intro s u s' hc hp hr hh he hd hs
  obtain ⟨u', hu, ha, ⟨es, hts, htu⟩, ⟨rs, hrs, hru⟩⟩ := step_historyFree s u s' ⟨hc, hp, hr, hh, he, hd⟩ hs
  exact ⟨u', es, rs, hu, hts, htu, hrs, hru, ha.cfg, ha.phase, ha.req, ha.host, ha.env, ha.draws⟩

end Sys2Proof.Machine
end

section
/-! The transport interface (20_memory.md R33 to R44): how the environment's answers are used, and the order of the primitive
calls. The checker `track` stands at `ready` or `flushed` in IDLE and at the pending call of the phase while an operation
runs; a step appends a return, a call, or a return and the next call. -/

namespace Sys2Proof.Machine

/-- Settles O33: an answer written out is the first of the list; without one it is the draw of the counter. -/
theorem answersAreUsedOnce : Obligations.AnswersAreUsedOnce := by
  unfold Obligations.AnswersAreUsedOnce
  refine ⟨fun s a later r h => ?_, fun s r h => ?_⟩
  · exact ⟨State.answer_of_cons h, by simp [h], State.returned_draws_of_cons h r⟩
  · exact ⟨State.answer_of_nil h, by simp [h], State.returned_draws_of_nil h r⟩

/-- Where the checker stands while the call of phase `p` of the operation `r` is pending (10_state.md R15); `ready` in
IDLE. -/
def Phase.pendingTrack (r : Request) : Phase → Track
  | .idle => .ready
  | .bXact => .busPending (readLength r.op)
  | .sWrite => .writePending
  | .sFlush => .flushPending
  | .sRead => .readPending (readLength r.op)

theorem Track.agrees_idle {k : Track} {q : Option Request} :
    k.agrees .idle q = true ↔ k = .ready ∨ k = .flushed := by
  cases k <;> simp [Track.agrees]

theorem Track.agrees_running {k : Track} {p : Phase} {r : Request} (hp : p ≠ .idle) :
    k.agrees p (some r) = true ↔ k = p.pendingTrack r := by
  cases p with
  | idle => exact absurd rfl hp
  | _ => cases k <;> simp [Track.agrees, Phase.pendingTrack, @eq_comm _ (readLength r.op)]

/-- No operation runs: the checker can take the first call of the next one. -/
theorem protocolInv_idle_iff {s : State} (hp : s.phase = .idle) (hr : s.req = none) :
    s.protocolInv = true ↔ ∃ k, track s.cfg s.trace = some k ∧ (k = .ready ∨ k = .flushed) := by
  unfold State.protocolInv
  cases track s.cfg s.trace <;> simp [hp, hr, Track.agrees_idle]

/-- An operation runs: the checker waits for the return of the phase's call, which was issued last. -/
theorem protocolInv_running_iff {s : State} {r : Request} (hp : s.phase ≠ .idle) (hr : s.req = some r) :
    s.protocolInv = true ↔ track s.cfg s.trace = some (s.phase.pendingTrack r) ∧
      s.trace.getLast? = (pendingCall s.cfg s.phase r).map (fun k => .call s.cfg.handle k) := by
  unfold State.protocolInv
  cases track s.cfg s.trace <;> simp [hr, Track.agrees_running hp]

/-! ## What the checker makes of the calls and returns of an operation -/

section
variable {c : Params} {k : Track} {r : Request}

theorem Track.next_start (hk : k = .ready ∨ k = .flushed) {h : Handle} {call : Call}
    (hc : ∀ m, call ≠ .streamReadExact m) : k.next c (.call h call) = Track.start c h call := by
  obtain rfl | rfl := hk
  · rfl
  · cases call with
    | streamReadExact m => exact absurd rfl (hc m)
    | _ => rfl

/-- The transaction of a BUS operation has the target and the lengths of the tables (20_memory.md R33). -/
theorem Track.next_busCall {t : BusAddr} (hl : c.link = .bus t) (hk : k = .ready ∨ k = .flushed) :
    k.next c (.call c.handle (busCall t c.opcodes r)) = some (Phase.bXact.pendingTrack r) := by
  rw [Track.next_start hk (by intro m; cases ho : r.op <;> simp [busCall, ho])]
  cases ho : r.op <;> simp [Track.start, busCall, writePhase, readLength, Phase.pendingTrack, hl, ho]

/-- The frame of a STREAM operation starts with SYNC and has the length of the tables (30_encoding.md R53, R54). -/
theorem Track.next_frame (hl : c.link = .stream) (hk : k = .ready ∨ k = .flushed) :
    k.next c (.call c.handle (.streamWriteAll (Config.SYNC :: writePhase c.opcodes r))) =
      some (Phase.sWrite.pendingTrack r) := by
  rw [Track.next_start hk (by simp)]
  cases ho : r.op <;> simp [Track.start, writePhase, Phase.pendingTrack, hl, ho]

/-- A read reads one byte or three (20_memory.md R33). -/
theorem Track.next_read (hm : readLength r.op ≠ 0) :
    Track.flushed.next c (.call c.handle (.streamReadExact (readLength r.op))) =
      some (Phase.sRead.pendingTrack r) := by
  cases ho : r.op <;> simp_all [Track.next, readLength, Phase.pendingTrack]

theorem Track.next_flush :
    Track.written.next c (.call c.handle .streamFlush) = some (Phase.sFlush.pendingTrack r) := by
  simp [Track.next, Phase.pendingTrack]

/-- After an Err only a new operation may start (60_exceptions.md R113). -/
theorem Track.next_err {p : Phase} (hp : p ≠ .idle) (e : TErr) :
    (p.pendingTrack r).next c (.ret (.err e)) = some .ready := by
  cases p with
  | idle => exact absurd rfl hp
  | _ => rfl

/-- The Ok of an operation's one transaction, or of its read, delivers the bytes the checker waits for. -/
theorem Track.next_value {p : Phase} {b : List Byte} {v : Value} (hp : p = .bXact ∨ p = .sRead)
    (hv : opValue r.op b = some v) : (p.pendingTrack r).next c (.ret (.ok b)) = some .ready := by
  have hb := length_of_opValue hv
  obtain rfl | rfl := hp <;> simp [Track.next, Phase.pendingTrack, hb]

end

/-! ## What the operations on the state make of the invariant -/

section
variable {s : State} {k : Track} {r : Request}

theorem track_returned (hk : track s.cfg s.trace = some k) (ret : Return) :
    track s.cfg (s.returned ret).trace = k.next s.cfg (.ret ret) := by
  rw [State.returned_trace, track_append_singleton, hk, Option.bind_some]

theorem State.finish_protocolInv (hk : track s.cfg s.trace = some k) (hr : k = .ready ∨ k = .flushed) (res : Result) :
    (s.finish res).protocolInv = true :=
  (protocolInv_idle_iff rfl rfl).mpr ⟨k, hk, hr⟩

/-- A call that the checker takes, and that is the one of its phase, restores the invariant. -/
theorem State.issue_protocolInv {p : Phase} {call : Call} (hr : s.req = some r) (hp : p ≠ .idle)
    (hk : track s.cfg s.trace = some k) (hc : pendingCall s.cfg p r = some call)
    (hn : k.next s.cfg (.call s.cfg.handle call) = some (p.pendingTrack r)) : (s.issue p call).protocolInv = true := by
  refine (protocolInv_running_iff (s := s.issue p call) hp hr).mpr ⟨?_, by simp [hc]⟩
  rw [State.issue_cfg, State.issue_trace, track_append_singleton, hk, Option.bind_some, hn, State.issue_phase]

/-- Behind the flush a write ends and a read issues its read (42_stream_adapter.md R90). -/
theorem streamAfterFlush_protocolInv (hr : s.req = some r) (hk : track s.cfg s.trace = some .flushed) :
    (streamAfterFlush (readLength r.op) s).protocolInv = true := by
  by_cases hm : readLength r.op = 0
  · rw [streamAfterFlush_of_write hm]
    exact State.finish_protocolInv (s := s.flushed) hk (.inr rfl) _
  · rw [streamAfterFlush_of_read hm]
    exact State.issue_protocolInv (s := s.flushed) hr nofun hk rfl (Track.next_read hm)

end

/-- In IDLE at most the first call of a new operation is issued. -/
theorem step_idle_protocolInv {s s' : State} (hi : s.sequencerInv = true) (ht : s.protocolInv = true)
    (hp : s.phase = .idle) (hs : step s = .next s') : s'.protocolInv = true := by
  have hr := req_eq_none_of_idle hi hp
  obtain ⟨k, hk, hready⟩ := (protocolInv_idle_iff hp hr).mp ht
  obtain ⟨rest, rfl⟩ | ⟨rest, o, rfl⟩ | ⟨rest, r, t, -, hl, rfl⟩ | ⟨rest, r, -, hl, rfl⟩ := step_idle_cases hp hs
  · exact ht
  · exact ht
  · have hc : pendingCall s.cfg .bXact r = some (busCall t s.cfg.opcodes r) := by
      simp [pendingCall, Params.target, hl]
    exact State.issue_protocolInv (s := { s with host := rest, req := some r }) rfl nofun hk hc
      (Track.next_busCall hl hready)
  · exact State.issue_protocolInv
      (s := State.hand { s with host := rest, req := some r } (Config.SYNC :: writePhase s.cfg.opcodes r))
      rfl nofun hk rfl (Track.next_frame hl hready)

/-- While an operation runs the return of the pending call is recorded, and with it the call the table gives next. -/
theorem step_busy_protocolInv {s s' : State} (hi : s.sequencerInv = true) (ht : s.protocolInv = true)
    (hp : s.phase ≠ .idle) (hs : step s = .next s') : s'.protocolInv = true := by
  obtain ⟨r, hr, -, h⟩ := step_busy_cases hi hp hs
  obtain ⟨hk, -⟩ := (protocolInv_running_iff hp hr).mp ht
  have returned := track_returned hk
  obtain ⟨-, rfl⟩ | ⟨-, e, -, rfl⟩ | ⟨-, b, -, ⟨hq, v, hv, rfl⟩ | ⟨hq, rfl, -, rfl⟩ | ⟨hq, rfl, -, rfl⟩ |
    ⟨hq, -, v, hv, rfl⟩⟩ := h
  · exact ht
  · exact State.finish_protocolInv ((returned _).trans (Track.next_err hp e)) (.inl rfl) _
  · exact State.finish_protocolInv ((returned _).trans (Track.next_value (.inl hq) hv)) (.inl rfl) _
  · rw [hq] at returned
    exact State.issue_protocolInv hr nofun (returned (.ok [])) rfl Track.next_flush
  · rw [hq] at returned
    exact streamAfterFlush_protocolInv hr (returned (.ok []))
  · exact State.finish_protocolInv ((returned _).trans (Track.next_value (.inr hq) hv)) (.inl rfl) _

/-- Settles O4: what a step appends to the trace, the checker takes. -/
theorem stepKeepsTransportProtocol : Obligations.StepKeepsTransportProtocol := by
  unfold Obligations.StepKeepsTransportProtocol
  intro s s' hi ht hs
  by_cases hp : s.phase = .idle
  · exact step_idle_protocolInv hi ht hp hs
  · exact step_busy_protocolInv hi ht hp hs

end Sys2Proof.Machine
end

section
/-! The encodings (30_encoding.md): a word is its fields laid side by side, and for each kind of row of the opcode table (a
request, a command, a sample response, SYNC) decoding and encoding are inverse. -/

namespace Sys2Proof

theorem ReqOp.code_injective : Function.Injective ReqOp.code := by
  intro op op' h
  cases op <;> cases op' <;> simp_all [ReqOp.code]

/-- The 2-bit value that is no kind's opcode (30_encoding.md R60): the four values together have exclusive or zero, so it is
that of the three opcodes. -/
def Opcodes.unused (o : Opcodes) : Opcode := o.wreg ^^^ o.rreg ^^^ o.rdata

/-- Three distinct 2-bit values leave one, their exclusive or. -/
theorem eq_xor_iff_of_distinct : ∀ x y z : Opcode, x ≠ y → x ≠ z → y ≠ z →
    ∀ u : Opcode, u = x ^^^ y ^^^ z ↔ x ≠ u ∧ y ≠ u ∧ z ≠ u := by
  decide

theorem Opcodes.eq_unused_iff {o : Opcodes} (hl : o.lawful) {x : Opcode} : x = o.unused ↔ ∀ k, o.opc k ≠ x := by
  obtain ⟨hwr, hwd, hrd⟩ := hl
  rw [Opcodes.unused, eq_xor_iff_of_distinct _ _ _ hwr hwd hrd]
  refine ⟨fun ⟨hw, hr, hd⟩ k => ?_, fun h => ⟨h .writeReg, h .readReg, h .readData⟩⟩
  cases k <;> assumption

end Sys2Proof

namespace Sys2Proof.Machine

/-! ## Words and their fields -/

/-- A request word is OP, ADDR and DATA (30_encoding.md R57). -/
theorem append_requestFields (w : ReqWord) : opField w ++ addrField w ++ dataField w = w := by
  have high : opField w ++ addrField w = w.extractLsb' 8 8 := BitVec.extractLsb'_append_extractLsb'_eq_extractLsb' rfl
  rw [high]
  exact BitVec.extractLsb'_append_extractLsb'

/-- A command byte is ADDR and OPC (30_encoding.md R50). -/
theorem append_commandFields (b : Byte) : cmdAddr b ++ cmdOpcode b = b :=
  BitVec.extractLsb'_append_extractLsb'

/-- A sample response is its three bytes, first byte uppermost (30_encoding.md R55). -/
theorem append_responseBytes (x : BitVec 24) : responseByte0 x ++ responseByte1 x ++ responseByte2 x = x := by
  have high : responseByte0 x ++ responseByte1 x = x.extractLsb' 8 16 :=
    BitVec.extractLsb'_append_extractLsb'_eq_extractLsb' rfl
  rw [high]
  exact BitVec.extractLsb'_append_extractLsb'

/-- Two bit vectors side by side, as a number. -/
theorem toNat_append_eq_add {m n : Nat} (x : BitVec m) (y : BitVec n) :
    (x ++ y).toNat = x.toNat * 2 ^ n + y.toNat := by
  rw [BitVec.toNat_append, ← Nat.shiftLeft_add_eq_or_of_lt y.isLt, Nat.shiftLeft_eq]

/-- A request word as a number (30_encoding.md R63). -/
theorem encodeRequest_toNat (r : Request) :
    (encodeRequest r).toNat = r.op.code.toNat * 16384 + r.addr.toNat * 256 + r.data.toNat := by
  rw [encodeRequest, toNat_append_eq_add, toNat_append_eq_add]
  omega

/-- All four OP values are used (30_encoding.md R58). -/
theorem exists_opField_eq_code (w : ReqWord) : ∃ op : ReqOp, opField w = op.code := by
  have used : ∀ x : BitVec 2, x = ReqOp.wrreg.code ∨ x = ReqOp.wrraw.code ∨ x = ReqOp.rdreg.code ∨
      x = ReqOp.rdsample.code := by decide
  obtain h | h | h | h := used (opField w) <;> exact ⟨_, h⟩

/-! ## Request words -/

/-- The request whose fields a word holds, its reserved fields included. -/
theorem encodeRequest_of_fields {w : ReqWord} {r : Request} (ho : opField w = r.op.code) (ha : addrField w = r.addr)
    (hd : dataField w = r.data) : encodeRequest r = w := by
  rw [encodeRequest, ← ho, ← ha, ← hd, append_requestFields]

/-- What a word decodes to has the word's fields: those it does not use are zero in both. -/
theorem encodeRequest_of_decodeRequest {w : ReqWord} {r : Request} (h : decodeRequest w = .ok r) :
    encodeRequest r = w := by
  obtain ⟨op, ho⟩ := exists_opField_eq_code w
  cases op <;> simp only [decodeRequest, ho, ReqOp.code] at h
  case wrreg =>
    cases h
    exact encodeRequest_of_fields ho rfl rfl
  case wrraw =>
    by_cases ha : addrField w = 0#6 <;> simp [ha] at h
    subst h
    exact encodeRequest_of_fields ho ha rfl
  case rdreg =>
    by_cases hd : dataField w = 0#8 <;> simp [hd] at h
    subst h
    exact encodeRequest_of_fields ho rfl hd
  case rdsample =>
    by_cases ha : addrField w = 0#6 <;> by_cases hd : dataField w = 0#8 <;> simp [ha, hd] at h
    subst h
    exact encodeRequest_of_fields ho ha hd

/-- A word decodes to a request exactly when it is the request's word and the reserved fields are zero. -/
theorem decodeRequest_eq_ok_iff {w : ReqWord} {r : Request} :
    decodeRequest w = .ok r ↔ r.wellFormed = true ∧ encodeRequest r = w := by
  refine ⟨fun h => ⟨decodeRequest_wellFormed h, encodeRequest_of_decodeRequest h⟩, ?_⟩
  rintro ⟨hw, rfl⟩
  exact decodeRequest_encodeRequest hw

/-- A word does not decode exactly when the request in its fields has a reserved field that is not zero. -/
theorem decodeRequest_eq_error_iff {w : ReqWord} {op : ReqOp} (ho : opField w = op.code) :
    (∃ e, decodeRequest w = .error e) ↔
      Request.wellFormed { op := op, addr := addrField w, data := dataField w } = false := by
  have hr : encodeRequest { op := op, addr := addrField w, data := dataField w } = w :=
    encodeRequest_of_fields ho rfl rfl
  constructor
  · rintro ⟨e, he⟩
    by_contra hw
    rw [decodeRequest_eq_ok_iff.mpr ⟨by simpa using hw, hr⟩] at he
    cases he
  · intro hw
    cases hd : decodeRequest w with
    | error e => exact ⟨e, rfl⟩
    | ok q =>
      obtain ⟨hq, rfl⟩ := decodeRequest_eq_ok_iff.mp hd
      rw [opField_encodeRequest] at ho
      rw [← ReqOp.code_injective ho, addrField_encodeRequest, dataField_encodeRequest, hq] at hw
      cases hw

/-- A request word means its request's operation on the variant it is presented to (30_encoding.md R58). -/
theorem decode_encodeRequest {r : Request} (hw : r.wellFormed = true) (c : Params) :
    decode c (.request (encodeRequest r)) = .ok (r.instr c.transport) := by
  rw [decode, decodeRequest_encodeRequest hw]
  rfl

theorem decode_request_of_fields {w : ReqWord} {r : Request} (hw : r.wellFormed = true) (ho : opField w = r.op.code)
    (ha : addrField w = r.addr) (hd : dataField w = r.data) (c : Params) :
    decode c (.request w) = .ok (r.instr c.transport) := by
  rw [← encodeRequest_of_fields ho ha hd, decode_encodeRequest hw]

/-- BUS.X and STREAM.X have the same word. -/
theorem encode_instr {r : Request} (hw : r.wellFormed = true) (t : Transport) (c : Params) :
    encode c (r.instr t) = .request (encodeRequest r) := by
  obtain ⟨op, a, d⟩ := r
  cases t <;> cases op <;> simp_all [Request.wellFormed, Request.instr, encode]

/-! ## Command bytes -/

/-- The kind and address read from a byte have the byte's fields, and ReadData its register field zero, whatever the
opcodes. -/
theorem fields_of_readCommand {o : Opcodes} {b : Byte} {k : Kind} {a : RegAddr} (h : readCommand o b = .ok (k, a)) :
    cmdOpcode b = o.opc k ∧ a = cmdAddr b ∧ (k = .readData → a = 0#6) := by
  unfold readCommand at h
  split at h
  next hk => cases h; exact ⟨hk, rfl, nofun⟩
  split at h
  next hk => cases h; exact ⟨hk, rfl, nofun⟩
  split at h
  next hk =>
    split at h
    next ha => cases h; exact ⟨hk, ha.symm, fun _ => rfl⟩
    next => cases h
  next => cases h

/-- With distinct opcodes the fields determine the kind (30_encoding.md R65). -/
theorem readCommand_eq_ok_iff {o : Opcodes} (hl : o.lawful) {b : Byte} {k : Kind} {a : RegAddr} :
    readCommand o b = .ok (k, a) ↔ cmdOpcode b = o.opc k ∧ a = cmdAddr b ∧ (k = .readData → a = 0#6) := by
  refine ⟨fields_of_readCommand, ?_⟩
  obtain ⟨hwr, hwd, hrd⟩ := hl
  rintro ⟨hk, rfl, ha⟩
  cases k with
  | writeReg => simp [readCommand, hk, Opcodes.opc]
  | readReg => simp [readCommand, hk, Opcodes.opc, hwr.symm]
  | readData => simp [readCommand, hk, Opcodes.opc, hwd.symm, hrd.symm, ha rfl]

theorem decode_commandByte {c : Params} (hl : c.opcodes.lawful) {k : Kind} {a : RegAddr} (ha : k = .readData → a = 0#6) :
    decode c (.command (commandByte c.opcodes k a)) = .ok (commandInstr k a) := by
  have hr : readCommand c.opcodes (commandByte c.opcodes k a) = .ok (k, a) :=
    (readCommand_eq_ok_iff hl).mpr ⟨cmdOpcode_commandByte _ _ _, (cmdAddr_commandByte _ _ _).symm, ha⟩
  rw [decode, hr]
  rfl

theorem encode_commandInstr {k : Kind} {a : RegAddr} (ha : k = .readData → a = 0#6) (c : Params) :
    encode c (commandInstr k a) = .command (commandByte c.opcodes k a) := by
  cases k with
  | readData => rw [ha rfl]; rfl
  | _ => rfl

theorem cmdOpcode_encodeCommand (o : Opcodes) (k : Kind) (a : RegAddr) : cmdOpcode (encodeCommand o k a) = o.opc k := by
  rw [encodeCommand_eq_commandByte, cmdOpcode_commandByte]

theorem cmdAddr_encodeCommand (o : Opcodes) (k : Kind) (a : RegAddr) : cmdAddr (encodeCommand o k a) = a := by
  rw [encodeCommand_eq_commandByte, cmdAddr_commandByte]

/-! ## The rows of the opcode table -/

/-- A row is a request's operation on one of the variants, a command of the encoder, a sample response, or SYNC; the reserved
fields of a request and the register field of ReadData are zero. -/
inductive IsRow : Instr → Prop
  | request (t : Transport) {r : Request} (hw : r.wellFormed = true) : IsRow (r.instr t)
  | command {k : Kind} {a : RegAddr} (ha : k = .readData → a = 0#6) : IsRow (commandInstr k a)
  | response (b0 b1 b2 : Byte) : IsRow (.sampleResponse b0 b1 b2)
  | sync : IsRow .sync

theorem isRow (i : Instr) : IsRow i := by
  cases i with
  | cmdWreg a => exact .command (k := .writeReg) nofun
  | cmdRreg a => exact .command (k := .readReg) nofun
  | cmdRdata => exact .command (k := .readData) (a := 0#6) fun _ => rfl
  | busWrreg a v => exact .request .bus (r := { op := .wrreg, addr := a, data := v }) rfl
  | busWrraw p => exact .request .bus (r := { op := .wrraw, addr := 0#6, data := p }) rfl
  | busRdreg a => exact .request .bus (r := { op := .rdreg, addr := a, data := 0#8 }) rfl
  | busRdsample => exact .request .bus (r := { op := .rdsample, addr := 0#6, data := 0#8 }) rfl
  | streamWrreg a v => exact .request .stream (r := { op := .wrreg, addr := a, data := v }) rfl
  | streamWrraw p => exact .request .stream (r := { op := .wrraw, addr := 0#6, data := p }) rfl
  | streamRdreg a => exact .request .stream (r := { op := .rdreg, addr := a, data := 0#8 }) rfl
  | streamRdsample => exact .request .stream (r := { op := .rdsample, addr := 0#6, data := 0#8 }) rfl
  | sampleResponse b0 b1 b2 => exact .response b0 b1 b2
  | sync => exact .sync

/-- Settles O45: each kind of row is read back from its fields; that the row is one of the configuration's variant makes
it the request's operation there. -/
theorem decodeOfEncodeIsTheInstruction : Obligations.DecodeOfEncodeIsTheInstruction := by
  unfold Obligations.DecodeOfEncodeIsTheInstruction
  intro c i hc hi
  cases isRow i with
  | request t hw =>
    rw [Request.instr_wellFormed, beq_iff_eq] at hi
    rw [encode_instr hw, decode_encodeRequest hw, hi]
  | command ha => rw [encode_commandInstr ha, decode_commandByte (of_decide_eq_true hc) ha]
  | response b0 b1 b2 =>
    rw [encode, decode, responseByte0_append, responseByte1_append, responseByte2_append]
  | sync => rfl

/-- Settles O46: what is read from an item's fields has the same fields. -/
theorem encodeOfDecodeIsTheItem : Obligations.EncodeOfDecodeIsTheItem := by
  unfold Obligations.EncodeOfDecodeIsTheItem
  intro c it i h
  cases it with
  | request w =>
    cases hr : decodeRequest w with
    | error e => simp [decode, hr, Except.map] at h
    | ok r =>
      simp only [decode, hr, Except.map, Except.ok.injEq] at h
      rw [← h, encode_instr (decodeRequest_wellFormed hr), encodeRequest_of_decodeRequest hr]
  | command b =>
    cases hr : readCommand c.opcodes b with
    | error e => simp [decode, hr, Except.map] at h
    | ok ka =>
      simp only [decode, hr, Except.map, Except.ok.injEq] at h
      obtain ⟨k, a⟩ := ka
      obtain ⟨hk, rfl, ha⟩ := fields_of_readCommand hr
      rw [← h, encode_commandInstr ha, commandByte, ← hk, append_commandFields]
  | sync b =>
    simp only [decode] at h
    split at h <;> cases h
    next hb => rw [hb]; rfl
  | response x =>
    cases h
    rw [encode, append_responseBytes]

/-- Settles O47: with zero reserved fields the word is that of the request in its fields. -/
theorem requestWordsHaveTheirFields : Obligations.RequestWordsHaveTheirFields := by
  unfold Obligations.RequestWordsHaveTheirFields
  rintro ⟨link, h, o⟩ w
  refine ⟨fun ho => ?_, fun ho ha => ?_, fun ho hd => ?_, fun ho ha hd => ?_⟩
  · refine (decode_request_of_fields (r := { op := .wrreg, addr := addrField w, data := dataField w }) rfl ho rfl rfl
      _).trans ?_
    cases link <;> rfl
  · refine (decode_request_of_fields (r := { op := .wrraw, addr := 0#6, data := dataField w }) rfl ho ha rfl _).trans ?_
    cases link <;> rfl
  · refine (decode_request_of_fields (r := { op := .rdreg, addr := addrField w, data := 0#8 }) rfl ho rfl hd _).trans ?_
    cases link <;> rfl
  · refine (decode_request_of_fields (r := { op := .rdsample, addr := 0#6, data := 0#8 }) rfl ho ha hd _).trans ?_
    cases link <;> rfl

/-- An item that does not decode is passed over (log 10). -/
theorem step_of_decode_error {s : State} {it : Item} {rest : List Item} {e : DecodeError} (hp : s.phase = .idle)
    (hh : s.host = it :: rest) (hd : decode s.cfg it = .error e) : step s = .next { s with host := rest } := by
  simp [step, fetch_of_idle hp, fetchPresented, hh, hd]

/-- Settles O11: what a word's OP leaves unused has to be zero, and the step passes over a word that does not decode. -/
theorem reservedFieldsAreRefused : Obligations.ReservedFieldsAreRefused := by
  unfold Obligations.ReservedFieldsAreRefused
  refine ⟨fun w => ?_, fun s w rest e hp hh he => ?_⟩
  · obtain ⟨op, ho⟩ := exists_opField_eq_code w
    rw [decodeRequest_eq_error_iff ho, ho]
    cases op with
    | wrreg => simp [Request.wellFormed, ReqOp.code]
    | wrraw => simp [Request.wellFormed, ReqOp.code]
    | rdreg => simp [Request.wellFormed, ReqOp.code]
    | rdsample => simp [Request.wellFormed, ReqOp.code, imp_iff_not_or]
  · exact step_of_decode_error hp hh (by rw [decode, he]; rfl)

/-- Settles O35: the byte is the one laid out by fields. -/
theorem encodeHasTheCommandByteFields : Obligations.EncodeHasTheCommandByteFields := by
  unfold Obligations.EncodeHasTheCommandByteFields
  exact fun o k a => ⟨rfl, cmdOpcode_encodeCommand o k a, cmdAddr_encodeCommand o k a⟩

/-- Settles O37: `readCommand_eq_ok_iff`, in the bits of the byte. -/
theorem commandByteReadsBack : Obligations.CommandByteReadsBack := by
  unfold Obligations.CommandByteReadsBack
  exact fun o b k a hl => readCommand_eq_ok_iff hl

/-- Settles O38: bits 1:0 of ENCODE are an opcode, and one value is none. -/
theorem oneOpcodeValueIsNeverEncoded : Obligations.OneOpcodeValueIsNeverEncoded := by
  unfold Obligations.OneOpcodeValueIsNeverEncoded
  intro o hl
  have none_has := (Opcodes.eq_unused_iff hl).mp rfl
  refine ⟨o.unused, none_has, fun k a h => none_has k ?_, fun y hy => (Opcodes.eq_unused_iff hl).mpr hy⟩
  exact (cmdOpcode_encodeCommand o k a).symm.trans h

/-! ## The first call of an operation -/

theorem busOp_of_idle {s : State} {t : BusAddr} (hl : s.cfg.link = .bus t) (hp : s.phase = .idle) (r : Request)
    (call : BusAddr → Call) (resp : List Byte → Option Value) :
    busOp r call resp s = .next (s.accept r .bXact (call t)) := by
  rw [busOp, hl, hp]

theorem streamOp_of_idle {s : State} (hl : s.cfg.link = .stream) (hp : s.phase = .idle) (r : Request)
    (frame : List Byte) (m : Nat) (resp : List Byte → Option Value) :
    streamOp r frame m resp s = .next ((s.hand frame).accept r .sWrite (.streamWriteAll frame)) := by
  rw [streamOp, hl, hp]

/-- Settles O39: the frame of a raw write is the payload, behind SYNC on STREAM. -/
theorem syncValueMayFollowInAFrame : Obligations.SyncValueMayFollowInAFrame := by
  unfold Obligations.SyncValueMayFollowInAFrame
  refine ⟨fun o k hk => ?_, fun s hp hl => ?_, fun s t hp hl => ?_⟩
  · rw [encodeCommand_eq_commandByte, commandByte, hk]
    rfl
  · exact ⟨_, streamOp_of_idle hl hp _ _ _ _, rfl⟩
  · exact ⟨_, busOp_of_idle hl hp _ _ _, rfl⟩

/-! ## The assembler -/

theorem assemble_eq_none_iff {l : Asm} : assemble l = none ↔ l.wellFormed = false := by
  simp [assemble]

/-- OP set beside a number that leaves bits 15:14 free (30_encoding.md R63). -/
theorem toNat_ofNat_or {c n : Nat} (hc : c < 4) (hn : n < 16384) :
    (BitVec.ofNat 16 (16384 * c) ||| BitVec.ofNat 16 n).toNat = 16384 * c + n := by
  rw [BitVec.toNat_or, BitVec.toNat_ofNat, BitVec.toNat_ofNat, Nat.mod_eq_of_lt (by omega), Nat.mod_eq_of_lt (by omega)]
  exact (Nat.two_pow_add_eq_or_of_lt (i := 14) hn c).symm

theorem assemble_wrreg (a : RegAddr) (v : Byte) :
    assemble (.wrreg a.toNat v.toNat) = some (encodeRequest { op := .wrreg, addr := a, data := v }) := by
  have hw : Asm.wellFormed (.wrreg a.toNat v.toNat) = true := by simp [Asm.wellFormed, a.isLt, v.isLt]
  rw [assemble, if_pos hw, Option.some.injEq, ← BitVec.toNat_inj, encodeRequest_toNat]
  refine (Nat.mod_eq_of_lt (by omega)).trans ?_
  simp [ReqOp.code]

theorem assemble_wrraw (p : Byte) :
    assemble (.wrraw p.toNat) = some (encodeRequest { op := .wrraw, addr := 0#6, data := p }) := by
  have hw : Asm.wellFormed (.wrraw p.toNat) = true := by simp [Asm.wellFormed, p.isLt]
  rw [assemble, if_pos hw, Option.some.injEq, ← BitVec.toNat_inj, encodeRequest_toNat]
  refine (toNat_ofNat_or (c := 1) (by decide) (by omega)).trans ?_
  simp [ReqOp.code]

theorem assemble_rdreg (a : RegAddr) :
    assemble (.rdreg a.toNat) = some (encodeRequest { op := .rdreg, addr := a, data := 0#8 }) := by
  have hw : Asm.wellFormed (.rdreg a.toNat) = true := by simp [Asm.wellFormed, a.isLt]
  rw [assemble, if_pos hw, Option.some.injEq, ← BitVec.toNat_inj, encodeRequest_toNat]
  refine (toNat_ofNat_or (c := 2) (by decide) (by omega)).trans ?_
  simp [ReqOp.code]

/-- Settles O48: a line that fits is the number of its request's word, and one that does not is nothing. -/
theorem assemblerRefusesWhatDoesNotFit : Obligations.AssemblerRefusesWhatDoesNotFit := by
  unfold Obligations.AssemblerRefusesWhatDoesNotFit
  refine ⟨fun a v => ⟨assemble_wrreg a v, assemble_wrraw v, assemble_rdreg a⟩, rfl, fun a v p => ?_, fun s l h => ?_⟩
  · simp only [assemble_eq_none_iff, Asm.wellFormed, Bool.and_eq_false_iff, decide_eq_false_iff_not, Nat.not_lt]
    exact ⟨fun ha => ⟨.inl ha, ha⟩, .inr, id⟩
  · rw [State.submit, h]

/-- Settles O49: each word is read field by field. -/
theorem writtenOutWordsDecode : Obligations.WrittenOutWordsDecode := by
  unfold Obligations.WrittenOutWordsDecode
  exact fun _ _ => ⟨rfl, rfl, rfl, rfl, rfl, rfl, rfl, rfl, rfl, rfl, rfl, rfl, rfl⟩

end Sys2Proof.Machine
end

section
/-! The results (30_encoding.md R64): one for each operation, when it ends; a sample has bits 31:24 zero. -/

namespace Sys2Proof.Machine

/-- Widening two bit vectors side by side is shifting the upper one above the lower one. -/
theorem setWidth_append_eq_or {m n : Nat} (v : Nat) (x : BitVec m) (y : BitVec n) :
    (x ++ y).setWidth v = (x.setWidth v <<< n) ||| y.setWidth v := by
  refine BitVec.eq_of_getLsbD_eq fun i hi => ?_
  simp only [BitVec.getLsbD_setWidth, BitVec.getLsbD_append, BitVec.getLsbD_or, BitVec.getLsbD_shiftLeft]
  by_cases h : i < n
  · simp [h]
  · simp [h, hi, BitVec.getLsbD_of_ge y i (by omega), show i - n < v by omega]

/-- DECODE lays the three bytes side by side below eight zeros (43_sample_decoder.md R100). -/
theorem decodeSample_eq_append (b0 b1 b2 : Byte) : decodeSample b0 b1 b2 = 0#8 ++ (b0 ++ b1 ++ b2) := by
  have wide : decodeSample b0 b1 b2 = (b0 ++ b1 ++ b2).setWidth 32 := by
    rw [setWidth_append_eq_or, setWidth_append_eq_or, BitVec.shiftLeft_or_distrib, ← BitVec.shiftLeft_add, decodeSample]
  exact wide.trans (BitVec.setWidth_eq_append (by decide))

theorem decodeSample_high (b0 b1 b2 : Byte) : (decodeSample b0 b1 b2).extractLsb' 24 8 = 0#8 := by
  rw [decodeSample_eq_append]
  exact BitVec.extractLsb'_append_eq_left

/-- The sample an operation ends with is DECODE of the three bytes read. -/
theorem decodeSample_of_opValue {op : ReqOp} {bytes : List Byte} {x : Word32}
    (h : opValue op bytes = some (.sample x)) : ∃ b0 b1 b2, bytes = [b0, b1, b2] ∧ x = decodeSample b0 b1 b2 := by
  have hlen := length_of_opValue h
  cases op with
  | wrreg => cases (respUnit_eq_some h).2
  | wrraw => cases (respUnit_eq_some h).2
  | rdreg =>
    obtain ⟨b, rfl⟩ := List.length_eq_one_iff.mp hlen
    cases h
  | rdsample =>
    obtain ⟨b0, b1, b2, rfl⟩ := List.length_eq_three.mp hlen
    cases h
    exact ⟨b0, b1, b2, rfl, rfl⟩

theorem high_of_opValue {op : ReqOp} {bytes : List Byte} {x : Word32} (h : opValue op bytes = some (.sample x)) :
    x.extractLsb' 24 8 = 0#8 := by
  obtain ⟨b0, b1, b2, -, rfl⟩ := decodeSample_of_opValue h
  exact decodeSample_high b0 b1 b2

/-- A result that is no sample, or one with bits 31:24 zero, keeps the samples unsigned. -/
theorem State.samplesUnsigned_finish {s : State} {res : Result} (h : s.samplesUnsigned)
    (hr : ∀ x, res = .ok (.sample x) → x.extractLsb' 24 8 = 0#8) : (s.finish res).samplesUnsigned := by
  intro x hx
  rw [State.finish_results, List.mem_append, List.mem_singleton] at hx
  exact hx.elim (h x) fun hx => hr x hx.symm

theorem State.samplesUnsigned_await {s : State} {resp : List Byte → Option Value} {k : Value → State → State}
    (h : s.samplesUnsigned)
    (hk : ∀ b v t, resp b = some v → State.samplesUnsigned t → (k v t).samplesUnsigned) :
    (s.await resp k).samplesUnsigned := by
  obtain ⟨hs, -⟩ | ⟨e, -, hs⟩ | ⟨b, v, -, hv, hs⟩ := s.await_cases resp k <;> rw [hs]
  · exact h
  · exact State.samplesUnsigned_finish (s := s.returned (.err e)) h nofun
  · exact hk b v (s.returned (.ok b)) hv h

/-- An operation of either variant that ends with Ok ends with the value its bytes have. -/
theorem State.samplesUnsigned_await_value {s : State} (h : s.samplesUnsigned) (op : ReqOp) :
    (s.await (opValue op) (fun v t => t.finish (.ok v))).samplesUnsigned :=
  State.samplesUnsigned_await h fun b v t hv ht =>
    State.samplesUnsigned_finish ht fun x hx => high_of_opValue (by cases hx; exact hv)

theorem streamAfterFlush_samplesUnsigned {s : State} (h : s.samplesUnsigned) (m : Nat) :
    (streamAfterFlush m s).samplesUnsigned := by
  by_cases hm : m = 0
  · rw [streamAfterFlush_of_write hm]
    exact State.samplesUnsigned_finish (s := s.flushed) h nofun
  · rw [streamAfterFlush_of_read hm]
    exact h

theorem exec_samplesUnsigned {i : Instr} {s t : State} (h : s.samplesUnsigned) (hs : exec i s = .next t) :
    t.samplesUnsigned := by
  cases isRow i with
  | request tr hw =>
    cases tr with
    | bus =>
      rw [exec_instr_bus hw] at hs
      obtain ⟨target, -, ⟨-, rfl⟩ | ⟨-, -, rfl⟩ | ⟨-, -, rfl⟩⟩ := busOp_next_cases hs
      · exact h
      · exact State.samplesUnsigned_await_value h _
      · exact h
    | stream =>
      rw [exec_instr_stream hw] at hs
      obtain ⟨-, ⟨-, rfl⟩ | ⟨-, -, rfl⟩ | ⟨-, -, rfl⟩ | ⟨-, -, rfl⟩ | ⟨-, -, -, rfl⟩⟩ := streamOp_next_cases hs
      · exact h
      · exact State.samplesUnsigned_await h fun _ _ _ _ ht => ht
      · exact State.samplesUnsigned_await h fun _ _ _ _ ht => streamAfterFlush_samplesUnsigned ht _
      · exact State.samplesUnsigned_await_value h _
      · exact h
  | @command k a ha => cases k <;> cases hs <;> exact h
  | response b0 b1 b2 => cases hs; exact h
  | sync => cases hs; exact h

/-- Settles O6: a sample is added only at the end of a read, and it is DECODE of the bytes read. -/
theorem stepKeepsSamplesUnsigned : Obligations.StepKeepsSamplesUnsigned := by
  unfold Obligations.StepKeepsSamplesUnsigned
  intro s s' h hs
  obtain ⟨rest, rfl⟩ | ⟨i, rest, he⟩ := step_next_cases hs
  · exact h
  · exact exec_samplesUnsigned (s := { s with host := rest }) h he

/-- Settles O29: in IDLE no result is added; while an operation runs each row of the table that leads to IDLE adds one. -/
theorem oneResultWhenAnOperationEnds : Obligations.OneResultWhenAnOperationEnds := by
  unfold Obligations.OneResultWhenAnOperationEnds
  intro s s' hi hs
  by_cases hp : s.phase = .idle
  · refine .inr ⟨.inl hp, ?_⟩
    obtain ⟨rest, rfl⟩ | ⟨rest, o, rfl⟩ | ⟨rest, r, t, -, -, rfl⟩ | ⟨rest, r, -, -, rfl⟩ := step_idle_cases hp hs
    all_goals rfl
  · obtain ⟨r, -, -, ⟨-, rfl⟩ | ⟨-, e, -, rfl⟩ | ⟨-, b, -, ⟨-, v, -, rfl⟩ | ⟨-, -, -, rfl⟩ | ⟨-, -, -, rfl⟩ |
      ⟨-, -, v, -, rfl⟩⟩⟩ := step_busy_cases hi hp hs
    · exact .inr ⟨.inr hp, rfl⟩
    · exact .inl ⟨hp, rfl, _, rfl⟩
    · exact .inl ⟨hp, rfl, _, rfl⟩
    · exact .inr ⟨.inr nofun, rfl⟩
    · by_cases hm : readLength r.op = 0
      · rw [streamAfterFlush_of_write hm]
        exact .inl ⟨hp, rfl, _, rfl⟩
      · rw [streamAfterFlush_of_read hm]
        exact .inr ⟨.inr nofun, rfl⟩
    · exact .inl ⟨hp, rfl, _, rfl⟩

/-- Settles O50: each result's lines are its own; a byte widened with zeros is the same number. -/
theorem resultPortViewOfResults : Obligations.ResultPortViewOfResults := by
  unfold Obligations.ResultPortViewOfResults
  exact ⟨rfl, rfl, fun _ => ⟨rfl, rfl, BitVec.toNat_setWidth_of_le (by decide)⟩, fun _ => ⟨rfl, rfl⟩,
    fun _ => ⟨rfl, rfl, rfl⟩⟩

end Sys2Proof.Machine
end

section
/-! The command encoder (40_command_encoder.md R70 to R74): a command byte is its opcode and its address, and with distinct
opcodes the opcode is the kind. -/

namespace Sys2Proof

/-- The constraint on the parameters, as a property of `opc` (30_encoding.md R51). -/
theorem Opcodes.opc_injective {o : Opcodes} (hl : o.lawful) : Function.Injective o.opc := by
  obtain ⟨hwr, hwd, hrd⟩ := hl
  intro k1 k2 h
  cases k1 with
  | writeReg =>
    cases k2 with
    | writeReg => rfl
    | readReg => exact absurd h hwr
    | readData => exact absurd h hwd
  | readReg =>
    cases k2 with
    | writeReg => exact absurd h hwr.symm
    | readReg => rfl
    | readData => exact absurd h hrd
  | readData =>
    cases k2 with
    | writeReg => exact absurd h hwd.symm
    | readReg => exact absurd h hrd.symm
    | readData => rfl

end Sys2Proof

namespace Sys2Proof.Machine

/-- Equal bytes have equal fields, whatever the opcodes. -/
theorem encodeCommand_eq_iff {o : Opcodes} {k1 k2 : Kind} {a1 a2 : RegAddr} :
    encodeCommand o k1 a1 = encodeCommand o k2 a2 ↔ o.opc k1 = o.opc k2 ∧ a1 = a2 := by
  constructor
  · intro h
    have hopc := congrArg cmdOpcode h
    have haddr := congrArg cmdAddr h
    rw [cmdOpcode_encodeCommand, cmdOpcode_encodeCommand] at hopc
    rw [cmdAddr_encodeCommand, cmdAddr_encodeCommand] at haddr
    exact ⟨hopc, haddr⟩
  · rintro ⟨hopc, rfl⟩
    rw [encodeCommand, encodeCommand, hopc]

/-- The fields do not overlap, so the OR is a sum (40_command_encoder.md R70, corner cases). -/
theorem encodeCommand_toNat (o : Opcodes) (k : Kind) (a : RegAddr) :
    (encodeCommand o k a).toNat = (o.opc k).toNat + 4 * a.toNat := by
  rw [encodeCommand_eq_commandByte, commandByte, toNat_append_eq_add]
  omega

/-- At address 0 the byte is the opcode (40_command_encoder.md R70, corner cases). -/
theorem encodeCommand_zero (o : Opcodes) (k : Kind) : encodeCommand o k 0#6 = (o.opc k).setWidth 8 := by
  rw [encodeCommand, BitVec.setWidth_zero, BitVec.zero_shiftLeft, BitVec.or_zero]

/-- A command row drives ENCODE of its kind and address. -/
theorem exec_commandInstr {k : Kind} {a : RegAddr} (ha : k = .readData → a = 0#6) (s : State) :
    exec (commandInstr k a) s = .next (s.drive (.command (encodeCommand s.cfg.opcodes k a))) := by
  cases k with
  | readData => rw [ha rfl]; rfl
  | _ => rfl

/-- Settles O36: the address is a field of the byte, and with distinct opcodes the other field determines the kind. -/
theorem encodeIsInjective : Obligations.EncodeIsInjective := by
  unfold Obligations.EncodeIsInjective
  refine ⟨fun o k a1 a2 ha h => ?_, fun o k1 k2 a hl hk h => ?_, fun o k1 k2 a1 a2 hl h => ?_, encodeCommand_toNat⟩
  · exact ha (encodeCommand_eq_iff.mp h).2
  · exact hk (Opcodes.opc_injective hl (encodeCommand_eq_iff.mp h).1)
  · obtain ⟨hopc, haddr⟩ := encodeCommand_eq_iff.mp h
    exact ⟨Opcodes.opc_injective hl hopc, haddr⟩

/-- Settles O34: each row drives ENCODE, and ReadData's address is 0. -/
theorem commandRowsDriveTheCommandByte : Obligations.CommandRowsDriveTheCommandByte := by
  unfold Obligations.CommandRowsDriveTheCommandByte
  intro s a
  refine ⟨exec_commandInstr (k := .writeReg) nofun s, exec_commandInstr (k := .readReg) nofun s, ?_⟩
  have hd := exec_commandInstr (k := .readData) (fun _ => rfl) s
  rw [encodeCommand_zero] at hd
  exact hd

end Sys2Proof.Machine
end

section
/-! The BUS operations (41_bus_adapter.md R80 to R83): each is `busOp` of its request, its one transaction and its response, so
what B_XACT does with each answer is said once, for `busOp`. -/

namespace Sys2Proof.Machine

section
variable {s : State} {t : BusAddr} {r : Request} (hl : s.cfg.link = .bus t) (hp : s.phase = .bXact)
  (hr : s.req = some r) (call : BusAddr → Call) {resp : List Byte → Option Value}
include hl hp hr

/-- In B_XACT the running operation waits for its transaction, whose value ends it. -/
theorem busOp_of_running (resp : List Byte → Option Value) :
    busOp r call resp s = .next (s.await resp (fun v u => u.finish (.ok v))) := by
  rw [busOp, hl, hp, hr, if_pos rfl]

theorem busOp_ends_on_ok {bytes : List Byte} {v : Value} (ha : s.answer = .returns (.ok bytes))
    (hv : resp bytes = some v) : busOp r call resp s = .next ((s.returned (.ok bytes)).finish (.ok v)) := by
  rw [busOp_of_running hl hp hr, State.await_ok ha hv]

theorem busOp_ends_on_err {e : TErr} (ha : s.answer = .returns (.err e)) :
    busOp r call resp s = .next ((s.returned (.err e)).finish (.err (.commErr e))) := by
  rw [busOp_of_running hl hp hr, State.await_err ha, State.raiseCommErr]

theorem busOp_pends_on_never (ha : s.answer = .never) : busOp r call resp s = .next s := by
  rw [busOp_of_running hl hp hr, State.await_never ha]

end

/-- Settles O15: `busOp` with the command byte and the value, answered by no bytes. -/
theorem busWriteRegisterRuns : Obligations.BusWriteRegisterRuns := by
  unfold Obligations.BusWriteRegisterRuns
  intro s t a v hl
  refine ⟨rfl, fun hp => busOp_of_idle hl hp _ _ _, fun hp hr => ?_⟩
  exact ⟨fun ha => busOp_ends_on_ok hl hp hr _ ha rfl, fun _ => busOp_ends_on_err hl hp hr _,
    busOp_pends_on_never hl hp hr _⟩

/-- Settles O16: `busOp` with the payload alone, answered by no bytes. -/
theorem busWriteRawRuns : Obligations.BusWriteRawRuns := by
  unfold Obligations.BusWriteRawRuns
  intro s t p hl
  refine ⟨rfl, fun hp => busOp_of_idle hl hp _ _ _, fun hp hr => ?_⟩
  exact ⟨fun ha => busOp_ends_on_ok hl hp hr _ ha rfl, fun _ => busOp_ends_on_err hl hp hr _,
    busOp_pends_on_never hl hp hr _⟩

/-- Settles O17: `busOp` with the command byte, answered by one byte, which `respByte` hands on. -/
theorem busReadRegisterRuns : Obligations.BusReadRegisterRuns := by
  unfold Obligations.BusReadRegisterRuns
  intro s t a hl
  refine ⟨rfl, fun hp => busOp_of_idle hl hp _ _ _, fun hp hr => ?_⟩
  exact ⟨fun _ ha => busOp_ends_on_ok hl hp hr _ ha rfl, fun _ => busOp_ends_on_err hl hp hr _,
    busOp_pends_on_never hl hp hr _⟩

/-- Settles O18: `busOp` with the read-data command byte, answered by three bytes, which `respSample` decodes. -/
theorem busReadSampleRuns : Obligations.BusReadSampleRuns := by
  unfold Obligations.BusReadSampleRuns
  intro s t hl
  refine ⟨rfl, fun hp => busOp_of_idle hl hp _ _ _, fun hp hr => ?_⟩
  exact ⟨fun _ _ _ ha => busOp_ends_on_ok hl hp hr _ ha rfl, fun _ => busOp_ends_on_err hl hp hr _,
    busOp_pends_on_never hl hp hr _⟩

end Sys2Proof.Machine
end

section
/-! The STREAM operations (42_stream_adapter.md R90 to R95): each is `streamOp` of its request, its frame, its read length and
its response, so what each phase does with each answer is said once, for `streamOp`. -/

namespace Sys2Proof.Machine

theorem phase_ne_bXact_of_stream {s : State} (hi : s.sequencerInv = true) (hl : s.cfg.link = .stream) :
    s.phase ≠ .bXact := by
  intro hp
  obtain ⟨hq, -⟩ | ⟨r, -, -, ⟨-, t, hb⟩ | ⟨-, hq | hq | ⟨hq, -⟩⟩⟩ := sequencerInv_cases hi
  · cases hp.symm.trans hq
  · cases hl.symm.trans hb
  all_goals cases hp.symm.trans hq

/-- Settles O31: only the end of an operation adds a result; on STREAM an Ok ends a write with its flush and a read in S_READ,
where the invariant has the bound empty. -/
theorem streamOkMeansFlushed : Obligations.StreamOkMeansFlushed := by
  unfold Obligations.StreamOkMeansFlushed
  intro s s' v hi ht hs hv
  obtain ⟨hp, hend, -⟩ | ⟨-, hsame⟩ := oneResultWhenAnOperationEnds s s' hi hs
  · obtain ⟨r, -, -, ⟨-, rfl⟩ | ⟨-, e, -, rfl⟩ | ⟨-, b, -, ⟨hq, -⟩ | ⟨-, -, -, rfl⟩ | ⟨-, -, -, rfl⟩ |
      ⟨-, hh, u, -, rfl⟩⟩⟩ := step_busy_cases hi hp hs
    · exact absurd hend hp
    · cases List.append_cancel_left hv
    · exact absurd hq (phase_ne_bXact_of_stream hi (Params.transport_eq_stream.mp ht))
    · cases hend
    · exact streamAfterFlush_held _ _
    · exact hh
  · rw [hsame] at hv
    cases List.self_eq_append_right.mp hv

/-- A call that is answered and the next one issued are two events in a row. -/
theorem State.issue_returned (s : State) (ret : Return) (p : Phase) (k : Call) :
    (s.returned ret).issue p k =
      { s.returned ret with phase := p, trace := s.trace ++ [.ret ret, .call s.cfg.handle k] } := by
  simp [State.issue]

section
variable {s : State} {r : Request} (hl : s.cfg.link = .stream) (hr : s.req = some r) (frame : List Byte) (m : Nat)
  (resp : List Byte → Option Value)
include hl hr

theorem streamOp_of_sWrite (hp : s.phase = .sWrite) : streamOp r frame m resp s =
    .next (s.await respUnit (fun _ u => u.issue .sFlush .streamFlush)) := by
  simp only [streamOp, hl, hp, hr, if_true]

theorem streamOp_of_sFlush (hp : s.phase = .sFlush) : streamOp r frame m resp s =
    .next (s.await respUnit (fun _ u => streamAfterFlush m u)) := by
  simp only [streamOp, hl, hp, hr, if_true]

theorem streamOp_of_sRead (hp : s.phase = .sRead) : streamOp r frame m resp s =
    .next (s.await resp (fun v u => u.finish (.ok v))) := by
  simp only [streamOp, hl, hp, hr, if_true]

/-- In each of the three phases the running operation waits for the call of the phase. -/
theorem streamOp_waits (hp : s.phase = .sWrite ∨ s.phase = .sFlush ∨ s.phase = .sRead) :
    ∃ read next, streamOp r frame m resp s = .next (s.await read next) := by
  obtain hp | hp | hp := hp
  · exact ⟨_, _, streamOp_of_sWrite hl hr frame m resp hp⟩
  · exact ⟨_, _, streamOp_of_sFlush hl hr frame m resp hp⟩
  · exact ⟨_, _, streamOp_of_sRead hl hr frame m resp hp⟩

/-- An Err ends the operation at whichever call it comes, and no later call is made (60_exceptions.md R113). -/
theorem streamOp_ends_on_err {e : TErr} (hp : s.phase = .sWrite ∨ s.phase = .sFlush ∨ s.phase = .sRead)
    (ha : s.answer = .returns (.err e)) :
    streamOp r frame m resp s = .next ((s.returned (.err e)).finish (.err (.commErr e))) := by
  obtain ⟨read, next, hs⟩ := streamOp_waits hl hr frame m resp hp
  rw [hs, State.await_err ha, State.raiseCommErr]

theorem streamOp_pends_on_never (hp : s.phase = .sWrite ∨ s.phase = .sFlush ∨ s.phase = .sRead)
    (ha : s.answer = .never) : streamOp r frame m resp s = .next s := by
  obtain ⟨read, next, hs⟩ := streamOp_waits hl hr frame m resp hp
  rw [hs, State.await_never ha]

/-- The Ok of the write issues the flush. -/
theorem streamOp_flushes_on_write_ok (hp : s.phase = .sWrite) (ha : s.answer = .returns (.ok [])) :
    streamOp r frame m resp s = .next { s.returned (.ok []) with
      phase := .sFlush, trace := s.trace ++ [.ret (.ok []), .call s.cfg.handle .streamFlush] } := by
  rw [streamOp_of_sWrite hl hr frame m resp hp, State.await_ok ha rfl, State.issue_returned]

/-- The Ok of the flush ends a write. -/
theorem streamOp_ends_on_flush_ok (hp : s.phase = .sFlush) (ha : s.answer = .returns (.ok [])) :
    streamOp r frame 0 resp s = .next ((s.returned (.ok [])).flushed.finish (.ok .unit)) := by
  rw [streamOp_of_sFlush hl hr frame 0 resp hp, State.await_ok ha rfl, streamAfterFlush_of_write rfl]

/-- The Ok of the flush issues the read of a read. -/
theorem streamOp_reads_on_flush_ok {m : Nat} (hm : m ≠ 0) (hp : s.phase = .sFlush)
    (ha : s.answer = .returns (.ok [])) :
    streamOp r frame m resp s = .next { s.returned (.ok []) with
      phase := .sRead, held := [],
      trace := s.trace ++ [.ret (.ok []), .call s.cfg.handle (.streamReadExact m)] } := by
  rw [streamOp_of_sFlush hl hr frame m resp hp, State.await_ok ha rfl, streamAfterFlush_of_read hm]
  simp [State.issue, State.flushed]

/-- The Ok of the read ends the operation with the value of the bytes. -/
theorem streamOp_ends_on_read_ok {resp : List Byte → Option Value} {bytes : List Byte} {v : Value}
    (hp : s.phase = .sRead) (ha : s.answer = .returns (.ok bytes)) (hv : resp bytes = some v) :
    streamOp r frame m resp s = .next ((s.returned (.ok bytes)).finish (.ok v)) := by
  rw [streamOp_of_sRead hl hr frame m resp hp, State.await_ok ha hv]

end

/-- Settles O19: `streamOp` with SYNC, the command byte and the value, and no read. -/
theorem streamWriteRegisterRuns : Obligations.StreamWriteRegisterRuns := by
  unfold Obligations.StreamWriteRegisterRuns
  intro s a v hl
  refine ⟨rfl, fun hp => ⟨_, streamOp_of_idle hl hp _ _ _ _⟩, fun hr => ?_⟩
  exact ⟨streamOp_flushes_on_write_ok hl hr _ _ _, fun hp ha => ⟨_, streamOp_ends_on_flush_ok hl hr _ _ hp ha⟩,
    fun _ hp => streamOp_ends_on_err hl hr _ _ _ (hp.imp_right .inl),
    fun hp => streamOp_pends_on_never hl hr _ _ _ (hp.imp_right .inl)⟩

/-- Settles O20: `streamOp` with SYNC and the payload, and no read. -/
theorem streamWriteRawRuns : Obligations.StreamWriteRawRuns := by
  unfold Obligations.StreamWriteRawRuns
  intro s p hl
  refine ⟨rfl, fun hp => ⟨_, streamOp_of_idle hl hp _ _ _ _⟩, fun hr => ?_⟩
  exact ⟨streamOp_flushes_on_write_ok hl hr _ _ _, fun hp ha => ⟨_, streamOp_ends_on_flush_ok hl hr _ _ hp ha⟩,
    fun _ hp => streamOp_ends_on_err hl hr _ _ _ (hp.imp_right .inl),
    fun hp => streamOp_pends_on_never hl hr _ _ _ (hp.imp_right .inl)⟩

/-- Settles O21: `streamOp` with SYNC and the command byte, and a read of one byte, which `respByte` hands on. -/
theorem streamReadRegisterRuns : Obligations.StreamReadRegisterRuns := by
  unfold Obligations.StreamReadRegisterRuns
  intro s a hl
  refine ⟨rfl, fun hp => ⟨_, streamOp_of_idle hl hp _ _ _ _⟩, fun hr => ?_⟩
  exact ⟨streamOp_flushes_on_write_ok hl hr _ _ _,
    fun hp ha => ⟨_, streamOp_reads_on_flush_ok hl hr _ _ Nat.one_ne_zero hp ha⟩,
    fun _ hp ha => streamOp_ends_on_read_ok hl hr _ _ hp ha rfl,
    fun _ => streamOp_ends_on_err hl hr _ _ _, streamOp_pends_on_never hl hr _ _ _⟩

/-- Settles O22: `streamOp` with SYNC and the read-data command byte, and a read of three bytes, which `respSample`
decodes. -/
theorem streamReadSampleRuns : Obligations.StreamReadSampleRuns := by
  unfold Obligations.StreamReadSampleRuns
  intro s hl
  refine ⟨rfl, fun hp => ⟨_, streamOp_of_idle hl hp _ _ _ _⟩, fun hr => ?_⟩
  exact ⟨streamOp_flushes_on_write_ok hl hr _ _ _,
    fun hp ha => ⟨_, streamOp_reads_on_flush_ok hl hr _ _ (Nat.succ_ne_zero 2) hp ha⟩,
    fun _ _ _ hp ha => streamOp_ends_on_read_ok hl hr _ _ hp ha rfl,
    fun _ => streamOp_ends_on_err hl hr _ _ _, streamOp_pends_on_never hl hr _ _ _⟩

end Sys2Proof.Machine
end

section
/-! The sample decoder (43_sample_decoder.md R100 to R103): the low 24 bits of a sample are the three bytes side by side, first
byte uppermost, so the bytes are read back from it. -/

namespace Sys2Proof.Machine

/-- The sample and the sample response of 30_encoding.md R55 are the same number. -/
theorem decodeSample_toNat_eq_append (b0 b1 b2 : Byte) : (decodeSample b0 b1 b2).toNat = (b0 ++ b1 ++ b2).toNat := by
  rw [decodeSample_eq_append, toNat_append_eq_add, BitVec.toNat_zero, Nat.zero_mul, Nat.zero_add]

/-- The fields do not overlap, so the OR is a sum (43_sample_decoder.md R100, corner cases). -/
theorem decodeSample_toNat (b0 b1 b2 : Byte) :
    (decodeSample b0 b1 b2).toNat = b0.toNat * 65536 + b1.toNat * 256 + b2.toNat := by
  rw [decodeSample_toNat_eq_append, toNat_append_eq_add, toNat_append_eq_add]
  omega

/-- The low 24 bits are the sample response. -/
theorem decodeSample_low (b0 b1 b2 : Byte) : (decodeSample b0 b1 b2).extractLsb' 0 24 = b0 ++ b1 ++ b2 := by
  rw [decodeSample_eq_append]
  exact BitVec.extractLsb'_append_eq_right

theorem decodeSample_field0 (b0 b1 b2 : Byte) : (decodeSample b0 b1 b2).extractLsb' 16 8 = b0 := by
  have h := congrArg responseByte0 (decodeSample_low b0 b1 b2)
  rwa [responseByte0_append, responseByte0, BitVec.extractLsb'_extractLsb'_of_le (by decide)] at h

theorem decodeSample_field1 (b0 b1 b2 : Byte) : (decodeSample b0 b1 b2).extractLsb' 8 8 = b1 := by
  have h := congrArg responseByte1 (decodeSample_low b0 b1 b2)
  rwa [responseByte1_append, responseByte1, BitVec.extractLsb'_extractLsb'_of_le (by decide)] at h

theorem decodeSample_field2 (b0 b1 b2 : Byte) : (decodeSample b0 b1 b2).extractLsb' 0 8 = b2 := by
  have h := congrArg responseByte2 (decodeSample_low b0 b1 b2)
  rwa [responseByte2_append, responseByte2, BitVec.extractLsb'_extractLsb'_of_le (by decide)] at h

/-- Equal samples have equal fields. -/
theorem decodeSample_eq_iff {b0 b1 b2 c0 c1 c2 : Byte} :
    decodeSample b0 b1 b2 = decodeSample c0 c1 c2 ↔ b0 = c0 ∧ b1 = c1 ∧ b2 = c2 := by
  constructor
  · intro h
    refine ⟨?_, ?_, ?_⟩
    · rw [← decodeSample_field0 b0 b1 b2, h, decodeSample_field0]
    · rw [← decodeSample_field1 b0 b1 b2, h, decodeSample_field1]
    · rw [← decodeSample_field2 b0 b1 b2, h, decodeSample_field2]
  · rintro ⟨rfl, rfl, rfl⟩
    rfl

theorem decodeSample_toNat_le (b0 b1 b2 : Byte) : (decodeSample b0 b1 b2).toNat ≤ 0x00FFFFFF := by
  rw [decodeSample_toNat_eq_append]
  exact Nat.le_of_lt_succ (b0 ++ b1 ++ b2).isLt

/-- A value of at most 24 bits is DECODE of the bytes of its low 24 bits. -/
theorem decodeSample_responseBytes {v : Word32} (h : v.toNat ≤ 0x00FFFFFF) :
    decodeSample (responseByte0 (v.setWidth 24)) (responseByte1 (v.setWidth 24)) (responseByte2 (v.setWidth 24)) = v := by
  apply BitVec.eq_of_toNat_eq
  rw [decodeSample_toNat_eq_append, append_responseBytes, BitVec.toNat_setWidth]
  exact Nat.mod_eq_of_lt (Nat.lt_succ_of_le h)

/-- Settles O40: the bytes are the fields of the low 24 bits, and fields side by side are a sum. -/
theorem decodeHasTheSampleFields : Obligations.DecodeHasTheSampleFields := by
  unfold Obligations.DecodeHasTheSampleFields
  intro b0 b1 b2
  exact ⟨rfl, decodeSample_high b0 b1 b2, decodeSample_field0 b0 b1 b2, decodeSample_field1 b0 b1 b2,
    decodeSample_field2 b0 b1 b2, decodeSample_toNat b0 b1 b2⟩

/-- Settles O41: the bytes of a value's low 24 bits decode to it, and a sample's fields are its bytes. -/
theorem decodeIsBijective : Obligations.DecodeIsBijective := by
  unfold Obligations.DecodeIsBijective
  refine ⟨fun v => ⟨fun h => ⟨_, _, _, decodeSample_responseBytes h⟩, ?_⟩, fun _ _ _ _ _ _ => decodeSample_eq_iff.mp⟩
  rintro ⟨b0, b1, b2, rfl⟩
  exact decodeSample_toNat_le b0 b1 b2

/-- Settles O42: a first byte with bit 7 set is at least 0x80, and it counts 65536 times in the sum. -/
theorem decodeNeverSignExtends : Obligations.DecodeNeverSignExtends := by
  unfold Obligations.DecodeNeverSignExtends
  intro b0 b1 b2
  refine ⟨decodeSample_high b0 b1 b2, fun h => ⟨?_, decodeSample_toNat_le b0 b1 b2⟩⟩
  have first : 128 ≤ b0.toNat := Nat.ge_two_pow_of_testBit h
  rw [decodeSample_toNat]
  omega

/-- Settles O43: each byte is a field of its own, so a swap that keeps the sample swaps equal bytes. -/
theorem decodeIsOrderSensitive : Obligations.DecodeIsOrderSensitive := by
  unfold Obligations.DecodeIsOrderSensitive
  refine ⟨fun b0 b1 b2 => ⟨fun hne h => ?_, fun hne h => ?_, fun hne h => ?_⟩, by decide, by decide, by decide⟩
  · obtain ⟨-, h01, -⟩ := decodeSample_eq_iff.mp h
    exact hne h01
  · obtain ⟨-, -, h02⟩ := decodeSample_eq_iff.mp h
    exact hne h02
  · obtain ⟨-, -, h12⟩ := decodeSample_eq_iff.mp h
    exact hne h12

/-- A sample response drives DECODE of its bytes. -/
theorem exec_sampleResponse (b0 b1 b2 : Byte) (s : State) :
    exec (.sampleResponse b0 b1 b2) s = .next (s.drive (.sample (decodeSample b0 b1 b2))) := rfl

/-- The sync row drives the sync byte (30_encoding.md R53). -/
theorem exec_sync (s : State) : exec .sync s = .next (s.drive (.sync Config.SYNC)) := rfl

/-- Settles O44: both rows only drive, DECODE of the bytes and the sync byte. -/
theorem responseAndSyncRowsDriveTheirValue : Obligations.ResponseAndSyncRowsDriveTheirValue := by
  unfold Obligations.ResponseAndSyncRowsDriveTheirValue
  intro s b0 b1 b2
  exact ⟨exec_sampleResponse b0 b1 b2 s, exec_sync s⟩

end Sys2Proof.Machine
end

section
/-! The one error (60_exceptions.md R110 to R118): it is raised in the wait for the pending call and nowhere else. A running
operation is in such a wait in each of its phases, so an Err ends it and a call that never returns keeps it there. -/

namespace Sys2Proof.Machine

/-- While an operation runs, the step is the wait for the call of its phase. -/
theorem step_waits {s : State} (hi : s.sequencerInv = true) (hp : s.phase ≠ .idle) :
    ∃ read next, step s = .next (s.await read next) := by
  obtain ⟨hq, -⟩ | ⟨r, hr, hw, ⟨hq, t, hl⟩ | ⟨hl, hq | hq | ⟨hq, -⟩⟩⟩ := sequencerInv_cases hi
  · exact absurd hq hp
  · exact ⟨_, _, step_bXact hq hr hl hw⟩
  · exact ⟨_, _, step_sWrite hq hr hl hw⟩
  · exact ⟨_, _, step_sFlush hq hr hl hw⟩
  · exact ⟨_, _, step_sRead hq hr hl hw⟩

/-- Settles O26: the wait raises CommErr on an Err, whatever the phase goes on with on Ok. -/
theorem errEndsTheOperationAtOnce : Obligations.ErrEndsTheOperationAtOnce := by
  unfold Obligations.ErrEndsTheOperationAtOnce
  intro s e hi hp ha
  obtain ⟨read, next, hs⟩ := step_waits hi hp
  rw [hs, State.await_err ha]
  simp [State.raiseCommErr, State.finish, State.returned]

/-- A step that changes nothing is followed by steps that change nothing. -/
theorem run_of_step_self {s : State} (h : step s = .next s) (n : Nat) : Host.Core.run core n s = .next s := by
  induction n with
  | zero => exact run_zero s
  | succ n ih => rw [run_succ_of_next h, ih]

/-- Settles O28: the wait for a call that never returns changes nothing, so neither does any number of steps. -/
theorem pendingCallThatNeverReturnsHangs : Obligations.PendingCallThatNeverReturnsHangs := by
  unfold Obligations.PendingCallThatNeverReturnsHangs
  intro s n hi hp ha
  obtain ⟨read, next, hs⟩ := step_waits hi hp
  rw [State.await_never ha] at hs
  exact run_of_step_self hs n

/-! ## Where an Err result comes from -/

/-- What a wait goes on with on Ok adds no Err result. -/
def RaisesNothing (next : Value → State → State) : Prop :=
  ∀ v u x, (next v u).results ≠ u.results ++ [.err x]

theorem results_ne_append_err {s t : State} (h : t.results = s.results) (x : OpError) :
    t.results ≠ s.results ++ [.err x] := by
  simp [h]

theorem State.finish_ok_results_ne (s : State) (v : Value) (x : OpError) :
    (s.finish (.ok v)).results ≠ s.results ++ [.err x] := by
  simp

theorem raisesNothing_finish : RaisesNothing (fun v u => u.finish (.ok v)) :=
  fun v u x => u.finish_ok_results_ne v x

theorem raisesNothing_issue (p : Phase) (k : Call) : RaisesNothing (fun _ u => u.issue p k) :=
  fun _ _ x => results_ne_append_err rfl x

theorem raisesNothing_streamAfterFlush (m : Nat) : RaisesNothing (fun _ u => streamAfterFlush m u) := by
  intro _ u x
  by_cases hm : m = 0
  · simp only [streamAfterFlush_of_write hm]
    exact u.flushed.finish_ok_results_ne .unit x
  · simp only [streamAfterFlush_of_read hm]
    exact results_ne_append_err rfl x

/-- An instruction adds no result, or it is an operation's wait for its pending call, which raises nothing on Ok. -/
theorem exec_results_cases {i : Instr} {s t : State} (h : exec i s = .next t) :
    t.results = s.results ∨
    (s.phase ≠ .idle ∧ ∃ read next, RaisesNothing next ∧ t = s.await read next) := by
  obtain ⟨o, -, he⟩ | ⟨r, call, resp, -, he⟩ | ⟨r, frame, m, resp, -, he⟩ := exec_shape i <;> rw [he] at h
  · cases h; exact .inl rfl
  · obtain ⟨target, -, ⟨-, rfl⟩ | ⟨hp, -, rfl⟩ | ⟨-, -, rfl⟩⟩ := busOp_next_cases h
    · exact .inl rfl
    · exact .inr ⟨by simp [hp], _, _, raisesNothing_finish, rfl⟩
    · exact .inl rfl
  · obtain ⟨-, ⟨-, rfl⟩ | ⟨hp, -, rfl⟩ | ⟨hp, -, rfl⟩ | ⟨hp, -, rfl⟩ | ⟨-, -, -, rfl⟩⟩ := streamOp_next_cases h
    · exact .inl rfl
    · exact .inr ⟨by simp [hp], _, _, raisesNothing_issue .sFlush .streamFlush, rfl⟩
    · exact .inr ⟨by simp [hp], _, _, raisesNothing_streamAfterFlush m, rfl⟩
    · exact .inr ⟨by simp [hp], _, _, raisesNothing_finish, rfl⟩
    · exact .inl rfl

/-- A wait that raises nothing on Ok adds an Err result only with the return it came from, and with that return's error. -/
theorem State.await_adds_err {s : State} {read : List Byte → Option Value} {next : Value → State → State} {x : OpError}
    (hn : RaisesNothing next) (h : (s.await read next).results = s.results ++ [.err x]) :
    ∃ e, x = .commErr e ∧ s.answer = .returns (.err e) ∧
      (s.await read next).trace = s.trace ++ [.ret (.err e)] := by
  obtain ⟨hs, -⟩ | ⟨e, ha, hs⟩ | ⟨b, v, -, -, hs⟩ := s.await_cases read next <;> rw [hs] at h ⊢
  · exact absurd h (results_ne_append_err rfl x)
  · cases List.append_cancel_left h
    exact ⟨e, rfl, ha, rfl⟩
  · exact absurd h (hn v (s.returned (.ok b)) x)

/-- Settles O27: an Err result is added by an operation's wait, which takes it from the return. -/
theorem commErrComesFromTheTransport : Obligations.CommErrComesFromTheTransport := by
  unfold Obligations.CommErrComesFromTheTransport
  intro s s' x hs hx
  obtain ⟨rest, rfl⟩ | ⟨i, rest, he⟩ := step_next_cases hs
  · exact absurd hx (results_ne_append_err rfl x)
  · obtain hsame | ⟨hp, read, next, hn, rfl⟩ := exec_results_cases he
    · exact absurd hx (results_ne_append_err hsame x)
    · obtain ⟨e, hxe, ha, ht⟩ := State.await_adds_err hn hx
      exact ⟨e, hxe, hp, ha, ht⟩

end Sys2Proof.Machine
end

section
/-! Reset and the request port (70_reset_and_hazards.md R130 to R139): construction, acceptance in IDLE, no effect of what is
presented meanwhile, and the bound on a running operation. -/

namespace Sys2Proof.Machine

/-- Settles O1: construction writes the fields out, and the variant comes with its target. -/
theorem constructionLeavesIdleWithoutRequest : Obligations.ConstructionLeavesIdleWithoutRequest := by
  unfold Obligations.ConstructionLeavesIdleWithoutRequest
  refine fun c => ⟨rfl, rfl, rfl, rfl, rfl, rfl, fun t hl => ⟨?_, ?_⟩, fun hl => ⟨?_, ?_⟩⟩
  · exact Params.transport_eq_bus.mpr ⟨t, hl⟩
  · rw [Params.target, hl]
  · exact Params.transport_eq_stream.mpr hl
  · rw [Params.target, hl]

/-- Settles O8: in IDLE the fetch takes the first item and decodes it. -/
theorem stepRunsDecodedInstruction : Obligations.StepRunsDecodedInstruction := by
  unfold Obligations.StepRunsDecodedInstruction
  intro s it rest i hp hh hd
  simp only [step, fetch_of_idle hp, fetchPresented, hh, hd]

/-! ## An operation while another one runs -/

section
variable {s : State} {r : Request} {resp : List Byte → Option Value}

theorem busOp_of_other_running {t : BusAddr} (call : BusAddr → Call) (hl : s.cfg.link = .bus t)
    (hp : s.phase = .bXact) (hr : s.req ≠ some r) : busOp r call resp s = .next s := by
  simp only [busOp, hl, hp, if_neg hr]

theorem streamOp_of_other_running (frame : List Byte) (m : Nat) (hl : s.cfg.link = .stream) (hi : s.phase ≠ .idle)
    (hb : s.phase ≠ .bXact) (hr : s.req ≠ some r) : streamOp r frame m resp s = .next s := by
  cases hp : s.phase with
  | idle => exact absurd hp hi
  | bXact => exact absurd hp hb
  | sWrite => simp only [streamOp, hl, hp, if_neg hr]
  | sFlush => simp only [streamOp, hl, hp, if_neg hr]
  | sRead => simp only [streamOp, hl, hp, if_neg hr]

end

/-- A running phase of BUS is B_XACT (10_state.md R15). -/
theorem Phase.eq_bXact_of_fits_bus {p : Phase} (hf : p.fits .bus = true) (hp : p ≠ .idle) : p = .bXact := by
  cases p <;> simp_all [Phase.fits]

theorem Phase.ne_bXact_of_fits_stream {p : Phase} (hf : p.fits .stream = true) : p ≠ .bXact := by
  rintro rfl
  cases hf

/-- Settles O13: each phase of the variant acts only where the operation's own request is latched. -/
theorem otherOperationRunningHasNoEffect : Obligations.OtherOperationRunningHasNoEffect := by
  unfold Obligations.OtherOperationRunningHasNoEffect
  intro s r q hw hq hne hp hf
  have other : s.req ≠ some r := fun h => hne (Option.some.inj (hq.symm.trans h))
  cases ht : s.cfg.transport with
  | bus =>
    rw [ht] at hf
    obtain ⟨t, hl⟩ := Params.transport_eq_bus.mp ht
    rw [exec_instr_bus hw]
    exact busOp_of_other_running _ hl (Phase.eq_bXact_of_fits_bus hf hp) other
  | stream =>
    rw [ht] at hf
    rw [exec_instr_stream hw]
    exact streamOp_of_other_running _ _ (Params.transport_eq_stream.mp ht) hp (Phase.ne_bXact_of_fits_stream hf) other

/-! ## `req` while an operation runs -/

/-- The wait keeps `req` or ends the operation when what it goes on with does. -/
theorem State.await_req (s : State) (resp : List Byte → Option Value) {k : Value → State → State}
    (hk : ∀ v t, (k v t).req = t.req ∨ (k v t).req = none) :
    (s.await resp k).req = s.req ∨ (s.await resp k).req = none := by
  obtain ⟨h, -⟩ | ⟨e, -, h⟩ | ⟨b, v, -, -, h⟩ := s.await_cases resp k <;> rw [h]
  · exact .inl rfl
  · exact .inr rfl
  · exact hk v (s.returned (.ok b))

theorem streamAfterFlush_req (m : Nat) (s : State) :
    (streamAfterFlush m s).req = s.req ∨ (streamAfterFlush m s).req = none := by
  by_cases hm : m = 0
  · rw [streamAfterFlush_of_write hm]
    exact .inr rfl
  · rw [streamAfterFlush_of_read hm]
    exact .inl rfl

/-- Outside IDLE an instruction latches no request (10_state.md R16). -/
theorem exec_req_of_busy {i : Instr} {s t : State} (hp : s.phase ≠ .idle) (h : exec i s = .next t) :
    t.req = s.req ∨ t.req = none := by
  obtain ⟨o, -, he⟩ | ⟨r, call, resp, -, he⟩ | ⟨r, frame, m, resp, -, he⟩ := exec_shape i <;> rw [he] at h
  · cases h; exact .inl rfl
  · obtain ⟨target, -, ⟨hq, -⟩ | ⟨-, -, rfl⟩ | ⟨-, -, rfl⟩⟩ := busOp_next_cases h
    · exact absurd hq hp
    · exact s.await_req _ fun _ _ => .inr rfl
    · exact .inl rfl
  · obtain ⟨-, ⟨hq, -⟩ | ⟨-, -, rfl⟩ | ⟨-, -, rfl⟩ | ⟨-, -, rfl⟩ | ⟨-, -, -, rfl⟩⟩ := streamOp_next_cases h
    · exact absurd hq hp
    · exact s.await_req _ fun _ _ => .inl rfl
    · exact s.await_req _ fun _ u => streamAfterFlush_req m u
    · exact s.await_req _ fun _ _ => .inr rfl
    · exact .inl rfl

/-! ## What the host holds -/

/-- `s` with other items in the host's hands. -/
def State.withHost (s : State) (items : List Item) : State := { s with host := items }

@[simp] theorem State.withHost_host (s : State) (items : List Item) : (s.withHost items).host = items := rfl

@[simp] theorem State.withHost_answer (s : State) (items : List Item) : (s.withHost items).answer = s.answer := rfl

/-- An operation on the state that neither reads nor writes what the host holds. -/
def HostBlind (f : State → State) : Prop :=
  ∀ s items, f (s.withHost items) = (f s).withHost items

theorem hostBlind_issue (p : Phase) (k : Call) : HostBlind (State.issue · p k) := fun _ _ => rfl

theorem hostBlind_finish (res : Result) : HostBlind (State.finish · res) := fun _ _ => rfl

theorem hostBlind_streamAfterFlush (m : Nat) : HostBlind (streamAfterFlush m) := by
  by_cases hm : m = 0
  · rw [funext (streamAfterFlush_of_write hm)]
    exact fun _ _ => rfl
  · rw [funext (streamAfterFlush_of_read hm)]
    exact fun _ _ => rfl

theorem hostBlind_await (resp : List Byte → Option Value) {k : Value → State → State} (hk : ∀ v, HostBlind (k v)) :
    HostBlind (State.await · resp k) := by
  intro s items
  have same := s.withHost_answer items
  obtain ⟨h, ha | ⟨b, ha, hn⟩⟩ | ⟨e, ha, h⟩ | ⟨b, v, ha, hv, h⟩ := s.await_cases resp k <;> simp only [h]
  · exact State.await_never (same.trans ha) resp k
  · exact State.await_unread (same.trans ha) hn k
  · exact State.await_err (same.trans ha) resp k
  · rw [State.await_ok (same.trans ha) hv]
    exact hk v (s.returned (.ok b)) items

theorem busOp_withHost {r : Request} {call : BusAddr → Call} {resp : List Byte → Option Value} {s t : State}
    (h : busOp r call resp s = .next t) (items : List Item) :
    busOp r call resp (s.withHost items) = .next (t.withHost items) := by
  obtain ⟨target, hl, ⟨hp, rfl⟩ | ⟨hp, hr, rfl⟩ | ⟨hp, hr, rfl⟩⟩ := busOp_next_cases h
  · exact busOp_of_idle (s := s.withHost items) hl hp r call resp
  · rw [busOp_of_running (s := s.withHost items) hl hp hr]
    exact congrArg _ (hostBlind_await resp (fun v => hostBlind_finish (.ok v)) s items)
  · exact busOp_of_other_running (s := t.withHost items) call hl hp hr

theorem streamOp_withHost {r : Request} {frame : List Byte} {m : Nat} {resp : List Byte → Option Value} {s t : State}
    (h : streamOp r frame m resp s = .next t) (items : List Item) :
    streamOp r frame m resp (s.withHost items) = .next (t.withHost items) := by
  obtain ⟨hl, ⟨hp, rfl⟩ | ⟨hp, hr, rfl⟩ | ⟨hp, hr, rfl⟩ | ⟨hp, hr, rfl⟩ | ⟨hi, hb, hr, rfl⟩⟩ := streamOp_next_cases h
  · exact streamOp_of_idle (s := s.withHost items) hl hp r frame m resp
  · rw [streamOp_of_sWrite (s := s.withHost items) hl hr frame m resp hp]
    exact congrArg _ (hostBlind_await respUnit (fun _ => hostBlind_issue .sFlush .streamFlush) s items)
  · rw [streamOp_of_sFlush (s := s.withHost items) hl hr frame m resp hp]
    exact congrArg _ (hostBlind_await respUnit (fun _ => hostBlind_streamAfterFlush m) s items)
  · rw [streamOp_of_sRead (s := s.withHost items) hl hr frame m resp hp]
    exact congrArg _ (hostBlind_await resp (fun v => hostBlind_finish (.ok v)) s items)
  · exact streamOp_of_other_running (s := t.withHost items) frame m hl hi hb hr

/-- An instruction neither reads nor writes what the host holds: taking an item is the fetch's. -/
theorem exec_withHost {i : Instr} {s t : State} (h : exec i s = .next t) (items : List Item) :
    exec i (s.withHost items) = .next (t.withHost items) := by
  obtain ⟨o, -, he⟩ | ⟨r, call, resp, -, he⟩ | ⟨r, frame, m, resp, -, he⟩ := exec_shape i <;> rw [he] at h ⊢
  · cases h; rfl
  · exact busOp_withHost h items
  · exact streamOp_withHost h items

/-- An instruction leaves the host's items: given its own items back, a state is itself, and so is what it answers. -/
theorem exec_host {i : Instr} {s t : State} (h : exec i s = .next t) : t.host = s.host := by
  have kept : t = t.withHost s.host := Host.Outcome.next.inj (h.symm.trans (exec_withHost h s.host))
  rw [kept, State.withHost_host]

/-! ## The step while an operation runs -/

/-- Outside IDLE a step that answers a next state found a latched request (log 18). -/
theorem latched_of_step_busy {s s' : State} (hp : s.phase ≠ .idle) (hs : step s = .next s') : ∃ r, s.req = some r := by
  cases hr : s.req with
  | some r => exact ⟨r, rfl⟩
  | none =>
    simp only [step, fetch_of_busy hp, fetchRunning, hr] at hs
    cases hs

/-- Outside IDLE the step is one instruction's, the same whatever the host holds. -/
theorem step_busy_eq_exec {s s' : State} (hp : s.phase ≠ .idle) (hs : step s = .next s') :
    ∃ i, exec i s = .next s' ∧ ∀ items, step (s.withHost items) = exec i (s.withHost items) := by
  obtain ⟨r, hr⟩ := latched_of_step_busy hp hs
  refine ⟨r.instr s.cfg.transport, ?_, fun items => stepRunsTheRunningOperation (s.withHost items) r hp hr⟩
  rw [← stepRunsTheRunningOperation s r hp hr, hs]

/-- Settles O12: outside IDLE the step is the running operation's, which latches no request and does not look at the host's
list. -/
theorem requestsAreTakenOnlyInIdle : Obligations.RequestsAreTakenOnlyInIdle := by
  unfold Obligations.RequestsAreTakenOnlyInIdle
  refine ⟨fun s s' hs hne => ?_, fun s s' items hp hs => ?_⟩
  · by_cases hp : s.phase = .idle
    · exact .inl hp
    · obtain ⟨i, he, -⟩ := step_busy_eq_exec hp hs
      exact .inr ((exec_req_of_busy hp he).resolve_left hne)
  · obtain ⟨i, he, hstep⟩ := step_busy_eq_exec hp hs
    exact ⟨exec_host he, (hstep items).trans (exec_withHost he items)⟩

/-! ## The bound on a running operation -/

/-- How many calls, at most, are to return before the operation ends, the pending one included (10_state.md R18). -/
def Phase.callsToReturn : Phase → Nat
  | .idle => 0
  | .bXact => 1
  | .sWrite => 3
  | .sFlush => 2
  | .sRead => 1

theorem Phase.callsToReturn_le_three (p : Phase) : p.callsToReturn ≤ 3 := by
  cases p <;> decide

/-- The operation of `s` has ended in `t` with one result, and the host's items are where they were. -/
def State.EndsIn (s t : State) : Prop :=
  t.phase = .idle ∧ t.req = none ∧ t.host = s.host ∧ ∃ r, t.results = s.results ++ [r]

/-- The step of a served call ends the operation or leaves fewer calls to return, and no result yet. -/
theorem step_of_served {s : State} (hi : s.sequencerInv = true) (hp : s.phase ≠ .idle) (hv : s.served = true) :
    ∃ t, step s = .next t ∧ (s.EndsIn t ∨
      (t.phase ≠ .idle ∧ t.phase.callsToReturn < s.phase.callsToReturn ∧ t.host = s.host ∧ t.results = s.results)) := by
  obtain ⟨t, hs⟩ := stepAlwaysAnswersNext s hi
  obtain ⟨r, hr⟩ := latched_of_step_busy hp hs
  have hh : t.host = s.host := (requestsAreTakenOnlyInIdle.2 s t [] hp hs).1
  refine ⟨t, hs, ?_⟩
  obtain ⟨hn, -⟩ | ⟨-, e, -, ht, hq, hres⟩ | ⟨-, b, -, row⟩ := phaseFollowsTheTable s t r hi hr hs
  · rw [hv] at hn
    cases hn
  · exact .inl ⟨ht, hq, hh, _, hres⟩
  · obtain ⟨-, ht, hq, v, -, hres⟩ | ⟨hsp, ht, -, hres⟩ | ⟨-, -, ht, hq, hres⟩ | ⟨hsp, -, ht, -, hres⟩ |
      ⟨-, ht, hq, v, -, hres⟩ := row
    · exact .inl ⟨ht, hq, hh, _, hres⟩
    · exact .inr ⟨by simp [ht], by simp [hsp, ht, Phase.callsToReturn], hh, hres⟩
    · exact .inl ⟨ht, hq, hh, _, hres⟩
    · exact .inr ⟨by simp [ht], by simp [hsp, ht, Phase.callsToReturn], hh, hres⟩
    · exact .inl ⟨ht, hq, hh, _, hres⟩

/-- An operation with at most `k` calls to return, each of them served, ends within `k` steps. -/
theorem run_ends_of_served {k : Nat} {s : State} (hi : s.sequencerInv = true) (hp : s.phase ≠ .idle)
    (hk : s.phase.callsToReturn ≤ k)
    (hserved : ∀ n t, n < k → Host.Core.run core n s = .next t → t.phase ≠ .idle → t.served = true) :
    ∃ n t, n ≤ k ∧ Host.Core.run core n s = .next t ∧ s.EndsIn t := by
  induction k generalizing s with
  | zero => cases hq : s.phase <;> simp_all [Phase.callsToReturn]
  | succ k ih =>
    obtain ⟨t, hs, ended | ⟨htp, hfewer, hth, htr⟩⟩ :=
      step_of_served hi hp (hserved 0 s k.succ_pos (run_zero s) hp)
    · exact ⟨1, t, by omega, by rw [run_succ_of_next hs, run_zero], ended⟩
    · have later : ∀ n u, n < k → Host.Core.run core n t = .next u → u.phase ≠ .idle → u.served = true :=
        fun n u hn hu => hserved (n + 1) u (by omega) (by rw [run_succ_of_next hs, hu])
      obtain ⟨n, u, hn, hu, hup, huq, huh, res, hur⟩ :=
        ih (stepKeepsSequencerInv s t hi hs) htp (by omega) later
      exact ⟨n + 1, u, by omega, by rw [run_succ_of_next hs, hu], hup, huq, huh.trans hth, res, htr ▸ hur⟩

/-- Settles O32: no phase has more than three calls to return. -/
theorem answeredOperationEndsWithinThreeSteps : Obligations.AnsweredOperationEndsWithinThreeSteps := by
  unfold Obligations.AnsweredOperationEndsWithinThreeSteps
  intro s hi hp hserved
  obtain ⟨n, t, hn, hrun, htp, htq, hth, r, htr⟩ :=
    run_ends_of_served hi hp s.phase.callsToReturn_le_three hserved
  exact ⟨n, t, r, hn, hrun, htp, htq, hth, htr⟩

end Sys2Proof.Machine
end
